-- ==== Sys2Proof/Word.lean ====
section
/-! DEFINITION. The word types of the block (00_scope.md R10, 30_encoding.md R101, R103): every one is a bit vector whose bit 0 is
the least significant bit. -/

namespace Sys2Proof

/-- A byte: a sample, a character, a bus byte, the `op` and `a` fields of a command word (R101). -/
abbrev Byte := BitVec 8

/-- A 16-bit register or operand (R27, R34, R36). -/
abbrev Half := BitVec 16

/-- A 32-bit operand or response value: field `b` of a command word (R101), `val` of a response (R103). -/
abbrev Word := BitVec 32

/-- A command word of format `C48` (R101): `op` in 47:40, `a` in 39:32, `b` in 31:0. -/
abbrev CmdWord := BitVec 48

/-- A response word of format `R40` (R103): `st` in 39:32, `val` in 31:0. -/
abbrev RspWord := BitVec 40

end Sys2Proof
end

