-- ==== Sys2Proof/Syntax.lean ====
section
/-! DEFINITION. The operations of the block as syntax: one constructor for each row of spec/opcode_table.json (30_encoding.md
R104), with the operand fields the row names (R102). Nothing here says what an operation does. -/

namespace Sys2Proof

/-- Operand of SETMODE and value of `clkMode` (10_state.md R28): which engine the periodic clock serves. -/
inductive ClkMode where
  /-- 0: the clock samples, each tick is a TICK.RX -/
  | rx
  /-- 1: the clock sends bits, each tick is a TICK.TX -/
  | tx
  deriving DecidableEq, Repr, Inhabited

/-- The form selector of LWAIT, `a[0]` (45_lora_primitives.md R244). -/
inductive WaitForm where
  /-- 0: one wait bounded by the timeout operand, or by `busyTimeout` when that is 0 -/
  | single
  /-- 1: the polled wait of `POLL_ATTEMPTS` polls -/
  | polled
  deriving DecidableEq, Repr, Inhabited

/-- The 55 operations of R104. -/
inductive Instr where
  -- system and availability (47_availability_system.md)
  | nop
  | rdreg (idx : Byte)
  | wrreg (idx : Byte) (v : Word)
  | evclr (m : Half)
  | sreset
  | setmode (m : ClkMode)
  | clkstop
  | require
  | release
  | ptt (on : Bool)
  -- sample ring buffer (41_ring_buffer.md)
  | rbnext
  | rbput (v : Byte)
  | rbget
  | rbeof
  | rbreset
  | rblast
  -- capture engine (42_capture_and_clock.md)
  | capstart (force : Bool)
  | capstop
  -- modulator (43_modulator.md)
  | txqpush (v : Byte)
  | txstart
  -- AX.25 codec (44_ax25_codec.md)
  | strclr
  | strput (v : Byte)
  | strget
  | s2a (idx : Byte)
  | a2s (idx : Byte)
  | axflg (idx : Byte) (f : Byte)
  | axrd (idx : Byte)
  | axssid (idx : Byte) (v : Byte)
  | axndigi (n : BitVec 4)
  | axctl (ctrl : Byte) (pid : Byte)
  | axenc
  | axdec
  | s2d
  | d2s (short : Bool)
  | axbclr
  | axbput (v : Byte)
  | axbget
  -- LoRa sequencer (45_lora_primitives.md, 46_lora_packet_config.md)
  | lpbclr
  | lpbput (v : Byte)
  | lpbrd (idx : Byte)
  | lwcmd (opc : Byte) (n : Byte)
  | lrcmd (opc : Byte) (p : Byte) (n : Byte)
  | lwreg (addr : Half) (v : Byte)
  | lrreg (addr : Half)
  | lwbuf (off : Byte) (n : Byte)
  | lrbuf (off : Byte) (n : Byte)
  | lsend (len : Byte)
  | lrecv (cap : Half)
  | lsetrx (t : BitVec 24)
  | lpoll
  | lsetfreq (hz : Word)
  | lsetpwr (level : Byte)
  | lrssi
  | lpktst
  | lwait (form : WaitForm) (t : Half)
  deriving DecidableEq, Repr, Inhabited

end Sys2Proof
end

