-- ==== Sys2Proof/WellFormed.lean ====
section
/-! DEFINITION. Which terms of `Instr` a command word can carry. Every operand type but one has exactly the width of its field
(30_encoding.md R104), so one check remains: the flag operand of AXFLG. -/

namespace Sys2Proof

/-- The instruction has an encoding: its operands leave every reserved bit of the command word 0 (R102, R106). Of AXFLG's flag
byte only bits 7 and 0 are operand bits (44_ax25_codec.md R208); every other operand fills its field. -/
def WellFormed (i : Instr) : Bool :=
  match i with
  | .axflg _ f => f &&& 0x7E == 0
  | .nop => true
  | .rdreg _ => true
  | .wrreg _ _ => true
  | .evclr _ => true
  | .sreset => true
  | .setmode _ => true
  | .clkstop => true
  | .require => true
  | .release => true
  | .ptt _ => true
  | .rbnext => true
  | .rbput _ => true
  | .rbget => true
  | .rbeof => true
  | .rbreset => true
  | .rblast => true
  | .capstart _ => true
  | .capstop => true
  | .txqpush _ => true
  | .txstart => true
  | .strclr => true
  | .strput _ => true
  | .strget => true
  | .s2a _ => true
  | .a2s _ => true
  | .axrd _ => true
  | .axssid _ _ => true
  | .axndigi _ => true
  | .axctl _ _ => true
  | .axenc => true
  | .axdec => true
  | .s2d => true
  | .d2s _ => true
  | .axbclr => true
  | .axbput _ => true
  | .axbget => true
  | .lpbclr => true
  | .lpbput _ => true
  | .lpbrd _ => true
  | .lwcmd _ _ => true
  | .lrcmd _ _ _ => true
  | .lwreg _ _ => true
  | .lrreg _ => true
  | .lwbuf _ _ => true
  | .lrbuf _ _ => true
  | .lsend _ => true
  | .lrecv _ => true
  | .lsetrx _ => true
  | .lpoll => true
  | .lsetfreq _ => true
  | .lsetpwr _ => true
  | .lrssi => true
  | .lpktst => true
  | .lwait _ _ => true

end Sys2Proof
end

