-- ==== Sys2Proof/Decode.lean ====
section
/-! DEFINITION. The decoder (30_encoding.md R101 to R106), total on every 48-bit word and rejecting by name, and the encoder
written from the same table (R104). -/

namespace Sys2Proof

/-- Why a command word is no operation (R106); both answer `ST_ILLEGAL`. -/
inductive DecodeError where
  /-- `op` is not a row of R104 (test 1 of R105) -/
  | unassigned (op : Byte)
  /-- a reserved bit of `a` or `b` is 1 (test 2 of R105) -/
  | reservedBit (op : Byte)
  deriving DecidableEq, Repr

/-- Field `op`, bits 47:40 (R101). -/
def opField (w : CmdWord) : Byte := w.extractLsb' 40 8

/-- Field `a`, bits 39:32 (R101). -/
def aField (w : CmdWord) : Byte := w.extractLsb' 32 8

/-- Field `b`, bits 31:0 (R101). -/
def bField (w : CmdWord) : Word := w.extractLsb' 0 32

/-- Test 2 of R105: the row's operand bits of `a` and `b` are those set in `ma` and `mb`; any other bit that is 1 is reserved. -/
def operands (op a : Byte) (b : Word) (ma : Byte) (mb : Word) (i : Instr) : Except DecodeError Instr :=
  if a &&& ~~~ma = 0 ∧ b &&& ~~~mb = 0 then .ok i else .error (.reservedBit op)

/-- The rows of R104 on the three fields of a word. The two masks of a row are its operand bits in `a` and in `b`. -/
def decodeFields (op a : Byte) (b : Word) : Except DecodeError Instr :=
  match op with
  | 0x00 => operands op a b 0x00 0x00000000 .nop
  | 0x01 => operands op a b 0xFF 0x00000000 (.rdreg a)
  | 0x02 => operands op a b 0xFF 0xFFFFFFFF (.wrreg a b)
  | 0x03 => operands op a b 0x00 0x0000FFFF (.evclr (b.extractLsb' 0 16))
  | 0x04 => operands op a b 0x00 0x00000000 .sreset
  | 0x05 => operands op a b 0x00 0x00000001 (.setmode (if b.getLsbD 0 then .tx else .rx))
  | 0x06 => operands op a b 0x00 0x00000000 .clkstop
  | 0x07 => operands op a b 0x00 0x00000000 .require
  | 0x08 => operands op a b 0x00 0x00000000 .release
  | 0x09 => operands op a b 0x00 0x00000001 (.ptt (b.getLsbD 0))
  | 0x10 => operands op a b 0x00 0x00000000 .rbnext
  | 0x11 => operands op a b 0x00 0x000000FF (.rbput (b.extractLsb' 0 8))
  | 0x12 => operands op a b 0x00 0x00000000 .rbget
  | 0x13 => operands op a b 0x00 0x00000000 .rbeof
  | 0x14 => operands op a b 0x00 0x00000000 .rbreset
  | 0x15 => operands op a b 0x00 0x00000000 .rblast
  | 0x20 => operands op a b 0x00 0x00000001 (.capstart (b.getLsbD 0))
  | 0x21 => operands op a b 0x00 0x00000000 .capstop
  | 0x30 => operands op a b 0x00 0x000000FF (.txqpush (b.extractLsb' 0 8))
  | 0x31 => operands op a b 0x00 0x00000000 .txstart
  | 0x40 => operands op a b 0x00 0x00000000 .strclr
  | 0x41 => operands op a b 0x00 0x000000FF (.strput (b.extractLsb' 0 8))
  | 0x42 => operands op a b 0x00 0x00000000 .strget
  | 0x43 => operands op a b 0xFF 0x00000000 (.s2a a)
  | 0x44 => operands op a b 0xFF 0x00000000 (.a2s a)
  | 0x45 => operands op a b 0xFF 0x00000081 (.axflg a (b.extractLsb' 0 8))
  | 0x46 => operands op a b 0xFF 0x00000000 (.axrd a)
  | 0x47 => operands op a b 0xFF 0x000000FF (.axssid a (b.extractLsb' 0 8))
  | 0x48 => operands op a b 0x00 0x0000000F (.axndigi (b.extractLsb' 0 4))
  | 0x49 => operands op a b 0x00 0x0000FFFF (.axctl (b.extractLsb' 8 8) (b.extractLsb' 0 8))
  | 0x4A => operands op a b 0x00 0x00000000 .axenc
  | 0x4B => operands op a b 0x00 0x00000000 .axdec
  | 0x4C => operands op a b 0x00 0x00000000 .s2d
  | 0x4D => operands op a b 0x00 0x00000001 (.d2s (b.getLsbD 0))
  | 0x4E => operands op a b 0x00 0x00000000 .axbclr
  | 0x4F => operands op a b 0x00 0x000000FF (.axbput (b.extractLsb' 0 8))
  | 0x50 => operands op a b 0x00 0x00000000 .axbget
  | 0x60 => operands op a b 0x00 0x00000000 .lpbclr
  | 0x61 => operands op a b 0x00 0x000000FF (.lpbput (b.extractLsb' 0 8))
  | 0x62 => operands op a b 0x00 0x000000FF (.lpbrd (b.extractLsb' 0 8))
  | 0x63 => operands op a b 0xFF 0x000000FF (.lwcmd a (b.extractLsb' 0 8))
  | 0x64 => operands op a b 0xFF 0x0000FFFF (.lrcmd a (b.extractLsb' 8 8) (b.extractLsb' 0 8))
  | 0x65 => operands op a b 0x00 0x00FFFFFF (.lwreg (b.extractLsb' 8 16) (b.extractLsb' 0 8))
  | 0x66 => operands op a b 0x00 0x0000FFFF (.lrreg (b.extractLsb' 0 16))
  | 0x67 => operands op a b 0xFF 0x000000FF (.lwbuf a (b.extractLsb' 0 8))
  | 0x68 => operands op a b 0xFF 0x000000FF (.lrbuf a (b.extractLsb' 0 8))
  | 0x69 => operands op a b 0x00 0x000000FF (.lsend (b.extractLsb' 0 8))
  | 0x6A => operands op a b 0x00 0x0000FFFF (.lrecv (b.extractLsb' 0 16))
  | 0x6B => operands op a b 0x00 0x00FFFFFF (.lsetrx (b.extractLsb' 0 24))
  | 0x6C => operands op a b 0x00 0x00000000 .lpoll
  | 0x6D => operands op a b 0x00 0xFFFFFFFF (.lsetfreq b)
  | 0x6E => operands op a b 0x00 0x000000FF (.lsetpwr (b.extractLsb' 0 8))
  | 0x6F => operands op a b 0x00 0x00000000 .lrssi
  | 0x70 => operands op a b 0x00 0x00000000 .lpktst
  | 0x71 => operands op a b 0x01 0x0000FFFF (.lwait (if a.getLsbD 0 then .polled else .single) (b.extractLsb' 0 16))
  | _ => .error (.unassigned op)

/-- Decode a command word: tests 1 and 2 of R105. -/
def decode (w : CmdWord) : Except DecodeError Instr := decodeFields (opField w) (aField w) (bField w)

/-- The instruction the decoder reads from a table word, numbered as spec/opcode_table.json numbers its bits. The command word is
one 48-bit word taken whole in parallel (20_memory.md R72 iii), so there is no byte order to lay out; bits above `nbits` are 0. -/
def decodeTableWord (nbits w : Nat) : Option Instr :=
  match decode (BitVec.ofNat 48 (w % 2 ^ nbits)) with
  | .ok i => some i
  | .error _ => none

/-- The opcode of each operation (R104). -/
def opcodeOf (i : Instr) : Byte :=
  match i with
  | .nop => 0x00
  | .rdreg _ => 0x01
  | .wrreg _ _ => 0x02
  | .evclr _ => 0x03
  | .sreset => 0x04
  | .setmode _ => 0x05
  | .clkstop => 0x06
  | .require => 0x07
  | .release => 0x08
  | .ptt _ => 0x09
  | .rbnext => 0x10
  | .rbput _ => 0x11
  | .rbget => 0x12
  | .rbeof => 0x13
  | .rbreset => 0x14
  | .rblast => 0x15
  | .capstart _ => 0x20
  | .capstop => 0x21
  | .txqpush _ => 0x30
  | .txstart => 0x31
  | .strclr => 0x40
  | .strput _ => 0x41
  | .strget => 0x42
  | .s2a _ => 0x43
  | .a2s _ => 0x44
  | .axflg _ _ => 0x45
  | .axrd _ => 0x46
  | .axssid _ _ => 0x47
  | .axndigi _ => 0x48
  | .axctl _ _ => 0x49
  | .axenc => 0x4A
  | .axdec => 0x4B
  | .s2d => 0x4C
  | .d2s _ => 0x4D
  | .axbclr => 0x4E
  | .axbput _ => 0x4F
  | .axbget => 0x50
  | .lpbclr => 0x60
  | .lpbput _ => 0x61
  | .lpbrd _ => 0x62
  | .lwcmd _ _ => 0x63
  | .lrcmd _ _ _ => 0x64
  | .lwreg _ _ => 0x65
  | .lrreg _ => 0x66
  | .lwbuf _ _ => 0x67
  | .lrbuf _ _ => 0x68
  | .lsend _ => 0x69
  | .lrecv _ => 0x6A
  | .lsetrx _ => 0x6B
  | .lpoll => 0x6C
  | .lsetfreq _ => 0x6D
  | .lsetpwr _ => 0x6E
  | .lrssi => 0x6F
  | .lpktst => 0x70
  | .lwait _ _ => 0x71

/-- Field `a` of each operation's word (R104): an index, a chip opcode, an offset or the form selector; 0 where it is reserved. -/
def aOf (i : Instr) : Byte :=
  match i with
  | .rdreg idx => idx
  | .wrreg idx _ => idx
  | .s2a idx => idx
  | .a2s idx => idx
  | .axflg idx _ => idx
  | .axrd idx => idx
  | .axssid idx _ => idx
  | .lwcmd opc _ => opc
  | .lrcmd opc _ _ => opc
  | .lwbuf off _ => off
  | .lrbuf off _ => off
  | .lwait form _ => match form with | .single => 0 | .polled => 1
  | .nop | .evclr _ | .sreset | .setmode _ | .clkstop | .require | .release | .ptt _ | .rbnext | .rbput _ | .rbget => 0
  | .rbeof | .rbreset | .rblast | .capstart _ | .capstop | .txqpush _ | .txstart | .strclr | .strput _ | .strget => 0
  | .axndigi _ | .axctl _ _ | .axenc | .axdec | .s2d | .d2s _ | .axbclr | .axbput _ | .axbget | .lpbclr | .lpbput _ => 0
  | .lpbrd _ | .lwreg _ _ | .lrreg _ | .lsend _ | .lrecv _ | .lsetrx _ | .lpoll | .lsetfreq _ | .lsetpwr _ | .lrssi => 0
  | .lpktst => 0

/-- Field `b` of each operation's word (R104): the operands at the bits the row names, 0 elsewhere. -/
def bOf (i : Instr) : Word :=
  match i with
  | .wrreg _ v => v
  | .evclr m => m.setWidth 32
  | .setmode m => match m with | .rx => 0 | .tx => 1
  | .ptt on => (BitVec.ofBool on).setWidth 32
  | .rbput v => v.setWidth 32
  | .capstart force => (BitVec.ofBool force).setWidth 32
  | .txqpush v => v.setWidth 32
  | .strput v => v.setWidth 32
  | .axflg _ f => f.setWidth 32
  | .axssid _ v => v.setWidth 32
  | .axndigi n => n.setWidth 32
  | .axctl ctrl pid => (ctrl ++ pid).setWidth 32
  | .d2s short => (BitVec.ofBool short).setWidth 32
  | .axbput v => v.setWidth 32
  | .lpbput v => v.setWidth 32
  | .lpbrd idx => idx.setWidth 32
  | .lwcmd _ n => n.setWidth 32
  | .lrcmd _ p n => (p ++ n).setWidth 32
  | .lwreg addr v => (addr ++ v).setWidth 32
  | .lrreg addr => addr.setWidth 32
  | .lwbuf _ n => n.setWidth 32
  | .lrbuf _ n => n.setWidth 32
  | .lsend len => len.setWidth 32
  | .lrecv cap => cap.setWidth 32
  | .lsetrx t => t.setWidth 32
  | .lsetfreq hz => hz
  | .lsetpwr level => level.setWidth 32
  | .lwait _ t => t.setWidth 32
  | .nop | .rdreg _ | .sreset | .clkstop | .require | .release | .rbnext | .rbget | .rbeof | .rbreset | .rblast => 0
  | .capstop | .txstart | .strclr | .strget | .s2a _ | .a2s _ | .axrd _ | .axenc | .axdec | .s2d | .axbclr | .axbget => 0
  | .lpbclr | .lpoll | .lrssi | .lpktst => 0

/-- The command word of an instruction (R101): `op ++ a ++ b`. -/
def encode (i : Instr) : CmdWord := opcodeOf i ++ aOf i ++ bOf i

end Sys2Proof
end

