-- ==== Sys2Proof/Config.lean ====
section
/-! DEFINITION. What a build of the block fixes (00_scope.md R8) and the values the spec leaves open. `Build` is the record of the
parameters of R8: a `State` carries one, so that a statement about every state holds for every build. `Config.build` is the build
`State.reset` describes. An `opaque` constant has no body: nothing can prove which value it is. -/

namespace Sys2Proof

/-- Which physical layer is built (R8 `BACKEND`, R9): exactly one of the two. -/
inductive Backend where
  /-- the AFSK engines: ring, capture, clock, modulator -/
  | afsk
  /-- the LoRa command/response sequencer -/
  | lora
  deriving DecidableEq, Repr, Inhabited

/-- One raw ADC sample with its channel id and validity tag (R27 `frag`, R60 `in.adc`). `RAW_W` = 12 and `CHAN_W` = 4 (R8). -/
structure AdcSample where
  raw   : BitVec 12
  chan  : BitVec 4
  valid : Bool
  deriving DecidableEq, Repr, Inhabited

/-- The LoRa chip constants (30_encoding.md R118), each a named parameter with the value the table gives. -/
structure ChipTable where
  opcSetStandby          : Byte := 0x80
  opcSetRx               : Byte := 0x82
  opcSetTx               : Byte := 0x83
  opcCalibrate           : Byte := 0x89
  opcSetPacketType       : Byte := 0x8A
  opcSetRfFrequency      : Byte := 0x86
  opcSetTxParams         : Byte := 0x8E
  opcSetModulationParams : Byte := 0x8B
  opcSetPacketParams     : Byte := 0x8C
  opcSetBufferBase       : Byte := 0x8F
  opcSetDioIrqParams     : Byte := 0x08
  opcClearIrqStatus      : Byte := 0x02
  opcGetIrqStatus        : Byte := 0x12
  opcGetRxBufferStatus   : Byte := 0x13
  opcGetPacketStatus     : Byte := 0x14
  opcGetRssiInst         : Byte := 0x15
  opcWriteRegister       : Byte := 0x0D
  opcReadRegister        : Byte := 0x1D
  opcWriteBuffer         : Byte := 0x0E
  opcReadBuffer          : Byte := 0x1E
  statusMask             : Byte := 0x0E
  stCmdTimeout           : Byte := 0x06
  stCmdInvalid           : Byte := 0x08
  stCmdFailed            : Byte := 0x0A
  irqTxDone              : Half := 0x0001
  irqRxDone              : Half := 0x0002
  irqHeaderErr           : Half := 0x0020
  irqCrcErr              : Half := 0x0040
  irqTimeout             : Half := 0x0200
  irqAll                 : Half := 0x03FF
  nopByte                : Byte := 0x00
  readSkip               : Nat  := 1
  deriving DecidableEq, Repr, Inhabited

/-- The parameters of R8 that a rule of the spec computes with. A default is the value R8 gives; a field with no default is open
there. The rates, the tones and `GRACE_DELAY` are read by no rule (92_eei_decisions.md, "Open parameters") and stand below. -/
structure Build where
  /-- `BACKEND` -/
  backend      : Backend
  /-- `N`, the ring capacity in samples -/
  ringCap      : Nat := 200000
  /-- `MIN_FRAME` -/
  minFrame     : Nat := 2700
  /-- `FRAG_LEN`, open -/
  fragLen      : Nat
  /-- `ADC_CHAN`, open -/
  adcChan      : BitVec 4
  /-- `TXQ_DEPTH` -/
  txqDepth     : Nat := 128
  /-- `AXB_CAP` -/
  axbCap       : Nat := 512
  /-- `STR_CAP` -/
  strCap       : Nat := 80
  /-- `LPB_CAP` -/
  lpbCap       : Nat := 256
  /-- `BUSY_TIMEOUT`, the reset value of `busyTimeout` -/
  busyTimeout  : Half := 5000
  /-- `POLL_ATTEMPTS` -/
  pollAttempts : Nat := 10
  /-- `MAX_ATTEMPTS` -/
  maxAttempts  : Nat := 10
  /-- `PWR_TABLE[0..6]`, open -/
  pwrTable     : Vector Byte 7
  /-- `PWR_RAMP`, open -/
  pwrRamp      : Byte
  /-- `XTAL_HZ` -/
  xtalHz       : Nat := 32000000
  /-- `FREQ_SHIFT` -/
  freqShift    : Nat := 25
  /-- `TX_TIMEOUT`, open -/
  txTimeout    : BitVec 24
  /-- `OPC_*`, `STATUS_MASK`, `ST_CMD_*`, `IRQ_*`, `NOP_BYTE`, `READ_SKIP` -/
  chip         : ChipTable := {}
  deriving DecidableEq, Repr

/-- The constraint column of R8, with the upper bounds that the register widths of 10_state.md imply (log entry 3). -/
structure Build.wf (b : Build) : Prop where
  ringCap_ge     : 2 ≤ b.ringCap
  ringCap_le     : b.ringCap ≤ 2 ^ 32
  minFrame_pos   : 1 ≤ b.minFrame
  minFrame_lt    : b.minFrame < b.ringCap
  fragLen_pos    : 1 ≤ b.fragLen
  fragLen_lt     : b.fragLen < 2 ^ 16
  txqDepth_pos   : 1 ≤ b.txqDepth
  txqDepth_lt    : b.txqDepth < 2 ^ 16
  axbCap_ge      : 65 ≤ b.axbCap
  axbCap_lt      : b.axbCap < 2 ^ 16
  strCap_ge      : 69 ≤ b.strCap
  strCap_lt      : b.strCap < 2 ^ 8
  lpbCap_ge      : 255 ≤ b.lpbCap
  lpbCap_lt      : b.lpbCap < 2 ^ 9
  busyTimeout_pos : b.busyTimeout ≠ 0
  pollAttempts_pos : 1 ≤ b.pollAttempts
  maxAttempts_pos : 1 ≤ b.maxAttempts
  maxAttempts_lt : b.maxAttempts < 2 ^ 8
  xtalHz_pos     : 0 < b.xtalHz

/-- The byte memories of 20_memory.md R70, as names for the free value of a cell that nothing has written. -/
inductive Space where
  | buf | axb | strb | lpb
  deriving DecidableEq, Repr, Inhabited

namespace Config

/-- `FRAG_LEN` of the build `State.reset` describes, before it is brought into its range (R8: open). -/
opaque openFragLen : Nat
/-- `ADC_CHAN` (R8: open). -/
opaque openAdcChan : BitVec 4
/-- Entry `level` of `PWR_TABLE` (R8: open). -/
opaque openPwrTable (level : Nat) : Byte
/-- `PWR_RAMP` (R8: open). -/
opaque openPwrRamp : Byte
/-- `TX_TIMEOUT` (R8: open). -/
opaque openTxTimeout : BitVec 24
/-- `RX_SAMPLE_RATE` (R8: open; no rule reads it, R390). -/
opaque rxSampleRate : Nat
/-- `TX_BIT_RATE` (R8: open; no rule reads it, R390). -/
opaque txBitRate : Nat
/-- `TONE_MARK_HZ` (R8: open; no rule reads it). -/
opaque toneMarkHz : Nat
/-- `TONE_SPACE_HZ` (R8: open; no rule reads it). -/
opaque toneSpaceHz : Nat
/-- `GRACE_DELAY` (R8: open; no rule reads it, R309, R390). -/
opaque graceDelay : Nat

/-- The byte a cell of a memory holds at power-on (93_implementation_defined.md U1, U2: any value). -/
opaque unwrittenByte (sp : Space) (addr : Nat) : Byte
/-- The entry a cell of the fragment buffer holds at power-on (U2: any value). -/
opaque unwrittenFrag (addr : Nat) : AdcSample

/-- The `n`-th answer of `in.busy` after the answers the environment listed (R12: a free input). -/
opaque freeBusy (n : Nat) : Bool
/-- The `n`-th byte of `in.bus_in` after those the environment listed (R12: a free input). -/
opaque freeBusByte (n : Nat) : Byte
/-- The `n`-th answer of `in.det_receiving` after those the environment listed (R12: a free input). -/
opaque freeDet (n : Nat) : Bool
/-- The `n`-th triple of `in.adc` after those the environment listed (R12: a free input). -/
opaque freeAdc (n : Nat) : AdcSample

/-- A build with the values of R8, for either back end; its open parameters are the free constants above (`FRAG_LEN` brought into
`1 .. 65535`, the range its 16-bit counters can count). -/
def buildFor (back : Backend) : Build :=
  { backend := back
    fragLen := openFragLen % 65535 + 1
    adcChan := openAdcChan
    pwrTable := #v[openPwrTable 0, openPwrTable 1, openPwrTable 2, openPwrTable 3, openPwrTable 4, openPwrTable 5, openPwrTable 6]
    pwrRamp := openPwrRamp
    txTimeout := openTxTimeout }

/-- The build `State.reset` describes. DESIGN CHOICE (log entry 1), unsafe: of the two builds R8 leaves open, the AFSK one. -/
def build : Build := buildFor .afsk

end Config

end Sys2Proof
end

