-- ==== Sys2Proof/Machine/State.lean ====
section
/-! DEFINITION. The state of the block (10_state.md), engine by engine, as plain data; the inputs the environment offers and the
outputs of the last step, which are the model's own fields; the reasons a step can stop; the state after reset (R66). -/

namespace Sys2Proof.Machine

/-- A sparse memory: the cells that something has written, as (address, element) pairs with strictly rising addresses
(`Memory.wf`). With bytes for elements it is a list of `Host.Cell`. An unlisted address has no written value. -/
abbrev Memory (α : Type) := List (Nat × α)

/-- Sample ring buffer registers and memory (R22, R23, R26). -/
structure Ring where
  /-- `CUR_W` bits, a value in `[0, N-1]` -/
  readCursor             : Nat
  writeCursor            : Nat
  committedFrameStart    : Nat
  committedFrameLength   : Nat
  provisionalFrameStart  : Nat
  provisionalFrameLength : Nat
  /-- the ring memory `buf`, cells `0 .. N-1` of signed 8-bit samples -/
  buf                    : Memory Byte
  rbEnabled              : Bool
  deriving DecidableEq, Repr

/-- `capState` (R27). -/
inductive CapState where
  /-- 0 `CAP_IDLE` -/
  | idle
  /-- 1 `CAP_WAIT`: armed, squelch closed and not forced -/
  | wait
  /-- 2 `CAP_RUN`: pulling fragments -/
  | run
  /-- 3 `CAP_DONE`: a frame was delivered -/
  | done
  deriving DecidableEq, Repr, Inhabited

/-- Capture engine (R27). -/
structure Capture where
  capState        : CapState
  capForce        : Bool
  capCount        : Word
  capLen          : Word
  pendingBoundary : Bool
  /-- the fragment buffer `frag[0 .. FRAG_LEN-1]` -/
  frag            : Memory AdcSample
  /-- 16 bits, `0 .. FRAG_LEN` -/
  fragFill        : Nat
  /-- 16 bits, `0 .. FRAG_LEN` -/
  fragIdx         : Nat
  dcOffset        : Half
  scaleShift      : BitVec 4
  deriving DecidableEq, Repr

/-- The shared periodic clock (R28). -/
structure Clock where
  clkRun  : Bool
  clkMode : ClkMode
  deriving DecidableEq, Repr

/-- `txState` (R29). -/
inductive TxState where
  | idle
  | keyed
  deriving DecidableEq, Repr, Inhabited

/-- `toneSel` (R29): 0 `MARK`, 1 `SPACE`. -/
inductive Tone where
  | mark
  | space
  deriving DecidableEq, Repr, Inhabited

/-- Tone modulator and outgoing byte queue (R29, R30). `txqLevel` is the length of `txq`. -/
structure Modulator where
  txState    : TxState
  txByte     : Byte
  /-- 4 bits, `0 .. 8` -/
  txBitsLeft : Nat
  txCurBit   : Bool
  txCurValid : Bool
  toneSel    : Tone
  toneOn     : Bool
  ptt        : Bool
  /-- `TXQ`, oldest byte first -/
  txq        : List Byte
  deriving DecidableEq, Repr

/-- Six callsign characters, left-justified, padded with 0x20 (R31 `call[0 .. 5]`). -/
structure Callsign where
  c0 : Byte
  c1 : Byte
  c2 : Byte
  c3 : Byte
  c4 : Byte
  c5 : Byte
  deriving DecidableEq, Repr, Inhabited

/-- An `Ax25Address` record (R31). Of `flags` only bits 7 (`FLAG_DIGI`) and 0 (`FLAG_LAST`) are ever set. -/
structure Ax25Address where
  call  : Callsign
  ssid  : BitVec 4
  flags : Byte
  deriving DecidableEq, Repr, Inhabited

/-- Six spaces, SSID 0, no flags: the reset value of an address record (R31). -/
def Ax25Address.blank : Ax25Address :=
  { call := { c0 := 0x20, c1 := 0x20, c2 := 0x20, c3 := 0x20, c4 := 0x20, c5 := 0x20 }, ssid := 0, flags := 0 }

/-- AX.25 codec: address and frame registers and the two byte buffers (R31, R32, R33). -/
structure Codec where
  /-- `ADDR[0]` destination, `ADDR[1]` source, `ADDR[2+i]` digipeater `i` -/
  addr    : Vector Ax25Address 9
  axNdigi : BitVec 4
  axCtrl  : Byte
  axPid   : Byte
  axb     : Memory Byte
  /-- 16 bits, `0 .. AXB_CAP` -/
  axbLen  : Nat
  /-- 16 bits, `0 .. axbLen` -/
  axbRd   : Nat
  strb    : Memory Byte
  /-- 8 bits, `0 .. STR_CAP` -/
  strLen  : Nat
  /-- 8 bits, `0 .. strLen` -/
  strRd   : Nat
  deriving DecidableEq, Repr

/-- `loraMode` (R34): the chip-mirrored state. -/
inductive LoraMode where
  | standby
  | rx
  | tx
  deriving DecidableEq, Repr, Inhabited

/-- LoRa command channel (R34). -/
structure Lora where
  loraMode     : LoraMode
  csAsserted   : Bool
  paEnable     : Bool
  loraRst      : Bool
  busyTimeout  : Half
  pktPreamble  : Half
  /-- bit 0 `fixedLen`, bit 1 `crcOn`, bit 2 `invertIq` -/
  pktFlags     : BitVec 3
  lastStatus   : Byte
  lastAttempts : Byte
  rxTimeout    : BitVec 24
  lpb          : Memory Byte
  /-- 9 bits, `0 .. LPB_CAP` -/
  lpbLen       : Nat
  cfgFreq      : Word
  cfgSf        : BitVec 4
  cfgCr        : BitVec 3
  cfgBw        : Byte
  cfgPwr       : Byte
  deriving DecidableEq, Repr

/-- Availability contract, `RadioPhyState` (R35). -/
structure Avail where
  onOff        : Bool
  useCount     : Half
  available    : Bool
  channelReady : Bool
  txOff        : Bool
  pdPending    : Bool
  deriving DecidableEq, Repr

/-- Event flags, log counters, squelch level (R36, R37, R38). -/
structure Events where
  evt      : Half
  evmask   : Half
  logWarn  : Half
  logFail  : Half
  sqlLevel : Byte
  deriving DecidableEq, Repr

/-- What the environment and the schedule offer the block next (20_memory.md R80, 10_state.md R60): one entry is one moment. -/
inductive Stimulus where
  /-- the host transfers a command word (R100) -/
  | command (w : CmdWord)
  /-- the periodic clock ticks (R152, R186) -/
  | tick
  /-- the capture worker is scheduled (R157) -/
  | capStep
  /-- the squelch input has changed to level `v` and its edge step is taken (R310) -/
  | squelchEdge (v : Bool)
  /-- the power-down worker is scheduled (R309) -/
  | powerDown
  /-- `rst_n` falls between two steps (R360) -/
  | resetLow
  /-- `rst_n` rises (R360) -/
  | resetHigh
  /-- `rst_n` falls inside the operation of word `w`, after the first `k` entries of its bus trace (R362) -/
  | resetDuring (w : CmdWord) (k : Nat)
  /-- the input pin `squelch_open` takes level `v`; no step of the block -/
  | squelchPin (v : Bool)
  /-- the input pin `rb_alloc_ok` takes level `v`; no step of the block -/
  | allocPin (v : Bool)
  deriving DecidableEq, Repr

/-- The inputs (R12, R60), the model's own fields: the schedule as an agenda; the levels of `rst_n` and of the
two pins a rule samples; the answers each oracle port will give, first one first; and a counter that makes every answer beyond a
list a fresh free value. -/
structure Env where
  agenda      : List Stimulus
  rstN        : Bool
  squelchOpen : Bool
  rbAllocOk   : Bool
  adc         : List AdcSample
  det         : List Bool
  busy        : List Bool
  busIn       : List Byte
  freeReads   : Nat
  deriving DecidableEq, Repr

/-- Status codes of a response (R103). -/
inductive Status where
  | ok
  | illegal
  | absent
  | disabled
  | busy
  | full
  | empty
  | range
  deriving DecidableEq, Repr, Inhabited

/-- A response (R103): status and value. -/
structure Response where
  st  : Status
  val : Word
  deriving DecidableEq, Repr, Inhabited

/-- Output pins whose changes inside an operation stand in their place in its event sequence (R241). -/
inductive Pin where
  | paEnable
  | loraRst
  | radioPwr
  deriving DecidableEq, Repr, Inhabited

/-- One observable event of an operation (R241): the four bus events and the named pin writes between them. -/
inductive BusEvent where
  /-- `P(v)`: a poll of the busy pin -/
  | poll (v : Bool)
  /-- `CS+` -/
  | select
  /-- `X(o, i)`: byte `o` driven, byte `i` returned -/
  | xfer (o i : Byte)
  /-- `CS-` -/
  | deselect
  /-- another pin changes -/
  | pin (p : Pin) (v : Bool)
  deriving DecidableEq, Repr

/-- What the last step put on the pulsed outputs (R61, R241), the model's own field: the response word, the sample strobed to the
detector, the bus trace in order. `step` clears it before every step. -/
structure StepOut where
  rsp       : Option Response
  detSample : Option Byte
  trace     : List BusEvent
  deriving DecidableEq, Repr

/-- Nothing on the pulsed outputs. -/
def StepOut.none : StepOut := { rsp := Option.none, detSample := Option.none, trace := [] }

/-- The state of the block. `build` holds the parameters of its build (no step writes it), `env` the inputs still to come, `out`
the outputs of the last step; every other field is state 10_state.md gives the block. -/
structure State where
  build  : Build
  ring   : Ring
  cap    : Capture
  clk    : Clock
  tx     : Modulator
  codec  : Codec
  lora   : Lora
  avail  : Avail
  events : Events
  env    : Env
  out    : StepOut
  deriving DecidableEq, Repr

/-- The reasons a step can end in a fault. There is none: the spec names no step that stops the block (93_implementation_defined.md,
"No behaviour of the block is `stuck`"), and no operation can form an address outside its memory (R71). -/
inductive Fault where
  deriving DecidableEq, Repr

/-- The reasons a step can end in a refusal of the MODEL. (The block's own refusals are responses with a status, R331.) -/
inductive Refusal where
  /-- raised by `exec` alone, for an instruction with no meaning yet; safe. No arm of `exec` raises it. -/
  | notModelled (mnemonic : String)
  deriving DecidableEq, Repr

/-- What a step answers. -/
abbrev Result := Host.Outcome State Fault Refusal

/-- Inputs with nothing listed: `rst_n` back at 1, an empty agenda, every oracle answer free. The two
levels of the sampled pins are DESIGN CHOICE (log entry 2). -/
def Env.initial : Env :=
  { agenda := [], rstN := true, squelchOpen := false, rbAllocOk := true, adc := [], det := [], busy := [], busIn := [], freeReads := 0 }

/-- Every register of a build at the value of R66, the memories with nothing listed. `rbEnabled` samples `in.rb_alloc_ok` and
`EVT[8]` (`EV_ALLOCFAIL`) records a missing ring, in the AFSK build only (R26, R66). -/
def State.resetFor (b : Build) (e : Env) : State :=
  { build := b
    ring :=
      { readCursor := 0, writeCursor := 0, committedFrameStart := 0, committedFrameLength := 0
        provisionalFrameStart := 0, provisionalFrameLength := 0, buf := []
        rbEnabled := b.backend == .afsk && e.rbAllocOk }
    cap :=
      { capState := .idle, capForce := false, capCount := 0, capLen := 0, pendingBoundary := false
        frag := [], fragFill := 0, fragIdx := 0, dcOffset := 2048, scaleShift := 4 }
    clk := { clkRun := false, clkMode := .rx }
    tx :=
      { txState := .idle, txByte := 0, txBitsLeft := 0, txCurBit := false, txCurValid := false
        toneSel := .mark, toneOn := false, ptt := false, txq := [] }
    codec :=
      { addr := Vector.replicate 9 Ax25Address.blank, axNdigi := 0, axCtrl := 0, axPid := 0
        axb := [], axbLen := 0, axbRd := 0, strb := [], strLen := 0, strRd := 0 }
    lora :=
      { loraMode := .standby, csAsserted := false, paEnable := false, loraRst := false
        busyTimeout := b.busyTimeout, pktPreamble := 8, pktFlags := 0b010, lastStatus := 0, lastAttempts := 0
        rxTimeout := 0, lpb := [], lpbLen := 0, cfgFreq := 0, cfgSf := 0, cfgCr := 0, cfgBw := 0, cfgPwr := 0 }
    avail :=
      { onOff := false, useCount := 0, available := false, channelReady := false, txOff := true, pdPending := false }
    events :=
      { evt := if b.backend == .afsk && !e.rbAllocOk then 0x0100 else 0, evmask := 0, logWarn := 0, logFail := 0, sqlLevel := 0 }
    env := e
    out := StepOut.none }

/-- The block right after reset (R66, R360): the build of `Config.build`, nothing scheduled, no memory cell written. -/
def State.reset : State := State.resetFor Config.build Env.initial

end Sys2Proof.Machine
end

