-- ==== Sys2Proof/Machine/Ops.lean ====
section
/-! DEFINITION. The shared operations: the memories (20_memory.md R70, R74), the response that ends an operation and the refusal
that takes the place of an exception (30_encoding.md R103, 60_exceptions.md R341), the build tests made before an operation's own
rule (R105), the oracle reads (00_scope.md R12), the pins, and reset (70_reset_and_hazards.md R360, R361). -/

namespace Sys2Proof.Machine

/-! ### Memories -/

/-- The element written at an address, if something has written it. -/
def Memory.read? {α : Type} : Memory α → Nat → Option α
  | [], _ => none
  | (b, w) :: rest, a => if a = b then some w else Memory.read? rest a

/-- Store one element: `MemWrite(space, addr, 1, v)` of R11. Keeps the addresses strictly rising. -/
def Memory.write {α : Type} : Memory α → Nat → α → Memory α
  | [], a, v => [(a, v)]
  | (b, w) :: rest, a, v =>
    if a < b then (a, v) :: (b, w) :: rest
    else if a = b then (a, v) :: rest
    else (b, w) :: Memory.write rest a v

/-- The canonical form: addresses strictly rising. Since an unlisted address has no written value, equal memories are equal lists. -/
def Memory.wf {α : Type} : Memory α → Bool
  | [] => true
  | [_] => true
  | (a, _) :: (b, w) :: rest => decide (a < b) && Memory.wf ((b, w) :: rest)

/-- Read one byte: `MemRead(space, addr, 1)` of R11. A cell that nothing has written holds its power-on byte, a free value
(93_implementation_defined.md U1 and U2; log entries 6 and 7). -/
def Memory.byteAt (sp : Space) (m : Memory Byte) (a : Nat) : Byte :=
  (Memory.read? m a).getD (Config.unwrittenByte sp a)

/-- Read one entry of the fragment buffer; unwritten cells as for bytes (U2). -/
def Memory.fragAt (m : Memory AdcSample) (a : Nat) : AdcSample :=
  (Memory.read? m a).getD (Config.unwrittenFrag a)

/-- `space[a .. a+n-1]` as a list. -/
def Memory.bytes (sp : Space) (m : Memory Byte) (a : Nat) : Nat → List Byte
  | 0 => []
  | n + 1 => Memory.byteAt sp m a :: Memory.bytes sp m (a + 1) n

/-- `space[a ..] <- vs`, one element after the other. -/
def Memory.writeFrom (m : Memory Byte) (a : Nat) : List Byte → Memory Byte
  | [] => m
  | v :: vs => Memory.writeFrom (Memory.write m a v) (a + 1) vs

/-! ### Responses and refusals -/

/-- The 8-bit code of a status (R103). -/
def Status.code (st : Status) : Byte :=
  match st with
  | .ok => 0x00
  | .illegal => 0x01
  | .absent => 0x02
  | .disabled => 0x03
  | .busy => 0x04
  | .full => 0x05
  | .empty => 0x06
  | .range => 0x07

/-- The response word `R40` (R103): `st` in 39:32, `val` in 31:0. -/
def Response.word (r : Response) : RspWord := r.st.code ++ r.val

/-- Present a response word. -/
def State.withRsp (s : State) (st : Status) (val : Word) : State := { s with out.rsp := some { st := st, val := val } }

/-- `respond(st, val)` (R11): ends a host operation. -/
def State.respond (s : State) (st : Status) (val : Word) : Result := .next (s.withRsp st val)

/-- A refused operation (R331, R341), which stands in the place of an exception: the response word, with `val` 0, is all that
happens. Nothing is saved, no mode changes, control goes nowhere, so there is nothing to return from (R342). -/
def State.refuse (s : State) (st : Status) : Result := s.respond st 0

/-- Test 3 of R105 for an operation of the AFSK build (R9). -/
def onAfsk (s : State) (k : Result) : Result := if s.build.backend = .afsk then k else s.refuse .absent

/-- Test 3 of R105 for an operation of the LORA build (R9, R240, R270). -/
def onLora (s : State) (k : Result) : Result := if s.build.backend = .lora then k else s.refuse .absent

/-- Tests 3 and 4 of R105, for opcodes 0x10 to 0x21 (R130, R150). -/
def onRing (s : State) (k : Result) : Result :=
  onAfsk s (if s.ring.rbEnabled then k else s.refuse .disabled)

/-! ### Oracle reads (R12): one fresh answer for each read -/

/-- Read `in.busy`. -/
def takeBusy (s : State) : Bool × State :=
  match s.env.busy with
  | v :: rest => (v, { s with env.busy := rest })
  | [] => (Config.freeBusy s.env.freeReads, { s with env.freeReads := s.env.freeReads + 1 })

/-- Read `in.bus_in`. -/
def takeBusIn (s : State) : Byte × State :=
  match s.env.busIn with
  | v :: rest => (v, { s with env.busIn := rest })
  | [] => (Config.freeBusByte s.env.freeReads, { s with env.freeReads := s.env.freeReads + 1 })

/-- Read `in.det_receiving`. -/
def takeDet (s : State) : Bool × State :=
  match s.env.det with
  | v :: rest => (v, { s with env.det := rest })
  | [] => (Config.freeDet s.env.freeReads, { s with env.freeReads := s.env.freeReads + 1 })

/-- Read `in.adc`. -/
def takeAdc (s : State) : AdcSample × State :=
  match s.env.adc with
  | v :: rest => (v, { s with env.adc := rest })
  | [] => (Config.freeAdc s.env.freeReads, { s with env.freeReads := s.env.freeReads + 1 })

/-! ### The event sequence of an operation (R241) and the pins in it -/

/-- Append one event to the trace of the running operation. -/
def State.logEvent (s : State) (e : BusEvent) : State := { s with out.trace := s.out.trace ++ [e] }

/-- `CS+`. -/
def selectChip (s : State) : State := { s with lora.csAsserted := true }.logEvent .select

/-- `CS-`. -/
def deselectChip (s : State) : State := { s with lora.csAsserted := false }.logEvent .deselect

/-- `paEnable <- v`. -/
def setPaEnable (v : Bool) (s : State) : State := { s with lora.paEnable := v }.logEvent (.pin .paEnable v)

/-- `loraRst <- v`. -/
def setLoraRst (v : Bool) (s : State) : State := { s with lora.loraRst := v }.logEvent (.pin .loraRst v)

/-- `onOff <- v`, which is the pin `radio_pwr` (R62). -/
def setOnOff (v : Bool) (s : State) : State := { s with avail.onOff := v }.logEvent (.pin .radioPwr v)

/-! ### Reset -/

/-- The effect of `rst_n` and of SRESET on the state (R304, R360, R361, R362): every register at its reset value, `rb_alloc_ok`
sampled afresh; the memories keep their bytes; no bus transaction. The build, the inputs and what the step has put out stay. -/
def State.restart (s : State) : State :=
  { State.resetFor s.build s.env with
    ring.buf := s.ring.buf
    cap.frag := s.cap.frag
    codec.axb := s.codec.axb
    codec.strb := s.codec.strb
    lora.lpb := s.lora.lpb
    out := s.out }

end Sys2Proof.Machine
end

