-- ==== Sys2Proof/Machine/Flags.lean ====
section
/-! DEFINITION. Every flag and counter computation: the event register and the interrupt line (10_state.md R36), the saturating
counters (R27, R35, R37), the derived ring functions and the end-of-frame test (R25, 41_ring_buffer.md R134), the PID test
(30_encoding.md R111) and the inspection of a chip status byte (R117). -/

namespace Sys2Proof.Machine

/-! ### Event flags -/

/-- The flags of `EVT` (R36). -/
inductive EvtFlag where
  | frame
  | discard
  | txDone
  | lrxDone
  | lTimeout
  | ltxDone
  | warn
  | fail
  | allocFail
  | pwrDown
  | avail
  deriving DecidableEq, Repr, Inhabited

/-- The bit of each flag (R36). -/
def EvtFlag.bit (f : EvtFlag) : Nat :=
  match f with
  | .frame => 0
  | .discard => 1
  | .txDone => 2
  | .lrxDone => 3
  | .lTimeout => 4
  | .ltxDone => 5
  | .warn => 6
  | .fail => 7
  | .allocFail => 8
  | .pwrDown => 9
  | .avail => 10

/-- The flag as a word with its one bit set. -/
def EvtFlag.mask (f : EvtFlag) : Half := BitVec.twoPow 16 f.bit

/-- `EVT.<flag> <- 1`; flags are sticky (R36, R334). -/
def raiseEvt (f : EvtFlag) (s : State) : State := { s with events.evt := s.events.evt ||| f.mask }

/-- `irq = ((EVT and EVMASK) != 0)` (R36). -/
def State.irq (s : State) : Bool := s.events.evt &&& s.events.evmask != 0

/-! ### Saturating counters -/

/-- `min(x + 1, 2^w - 1)`. -/
def satInc {w : Nat} (x : BitVec w) : BitVec w := if x = BitVec.allOnes w then x else x + 1

/-- A logged warning (R37, R243, R247): `logWarn` counts, `EV_WARN` latches. -/
def logWarning (s : State) : State := raiseEvt .warn { s with events.logWarn := satInc s.events.logWarn }

/-- A logged non-fatal failure (R37, R247): `logFail` counts, `EV_FAIL` latches. -/
def logFailure (s : State) : State := raiseEvt .fail { s with events.logFail := satInc s.events.logFail }

/-! ### Ring functions (R25) -/

/-- `(a - b) mod n` for cursors, the mathematical modulus of R10. -/
def cursorDiff (n a b : Nat) : Nat := (((a : Int) - (b : Int)) % (n : Int)).toNat

/-- `Consumed`. -/
def State.consumed (s : State) : Nat := cursorDiff s.build.ringCap s.ring.readCursor s.ring.committedFrameStart

/-- `Unread`: samples of the committed frame not yet read. -/
def State.unread (s : State) : Nat :=
  if s.ring.committedFrameLength = 0 then 0
  else if s.consumed < s.ring.committedFrameLength then s.ring.committedFrameLength - s.consumed
  else 0

/-- `CommittedEnd`: the cell just after the committed frame. -/
def State.committedEnd (s : State) : Nat := (s.ring.committedFrameStart + s.ring.committedFrameLength) % s.build.ringCap

/-- `InNewer(c)`: cell `c` is among the cells written since the commit. -/
def State.inNewer (s : State) (c : Nat) : Bool :=
  cursorDiff s.build.ringCap c s.committedEnd < cursorDiff s.build.ringCap s.ring.writeCursor s.committedEnd

/-- `Eof` (R134): the three disjuncts in order. -/
def State.eof (s : State) : Bool :=
  s.ring.committedFrameLength == 0
    || (s.ring.readCursor == s.ring.writeCursor && s.unread == 0)
    || s.inNewer s.ring.readCursor

/-- The capture worker is the producer: `capState in {CAP_WAIT, CAP_RUN}` (R131, R132, R136, R155). -/
def State.workerActive (s : State) : Bool := s.cap.capState == .wait || s.cap.capState == .run

/-! ### Codec and chip status tests -/

/-- `HasPid(c)` (R111): an I-frame, or an unnumbered-information frame with the poll bit either way. -/
def hasPid (c : Byte) : Bool := !c.getLsbD 0 || c &&& 0xEF == 0x03

/-- Outcome of one write attempt (R117). -/
inductive LoraOutcome where
  /-- 0x00 `LS_OK` -/
  | ok
  /-- 0x01 `LS_TIMEOUT` -/
  | timeout
  /-- 0x02 `LS_INVALID` -/
  | invalid
  /-- 0x03 `LS_FAILED` -/
  | failed
  /-- 0x04 `LS_BUSFAIL` -/
  | busFail
  deriving DecidableEq, Repr, Inhabited

/-- The value of `lastStatus` that stands for an outcome (R117). -/
def LoraOutcome.code (o : LoraOutcome) : Byte :=
  match o with
  | .ok => 0x00
  | .timeout => 0x01
  | .invalid => 0x02
  | .failed => 0x03
  | .busFail => 0x04

/-- `Inspect(s)` (R117): the masked sub-field first, then the all-zero and all-one bytes. -/
def inspect (c : ChipTable) (b : Byte) : LoraOutcome :=
  if b &&& c.statusMask = c.stCmdTimeout then .timeout
  else if b &&& c.statusMask = c.stCmdInvalid then .invalid
  else if b &&& c.statusMask = c.stCmdFailed then .failed
  else if b = 0x00 ∨ b = 0xFF then .busFail
  else .ok

end Sys2Proof.Machine
end

