-- ==== Sys2Proof/Machine/Operands.lean ====
section
/-! DEFINITION. Operand forms: signed samples (30_encoding.md R102, 42_capture_and_clock.md R153), the byte order of multi-byte
quantities on the chip bus (R72 iv, R116), the frequency and power conversions (R116, R120), the packet-parameter bytes (R119),
the address register index (44_ax25_codec.md R205) and the command outcome value (45_lora_primitives.md R253). -/

namespace Sys2Proof.Machine

/-! ### Samples -/

/-- `sat8(i)` (R10): the signed 8-bit value `max(-128, min(127, i))`. -/
def sat8 (i : Int) : Byte := BitVec.ofInt 8 (max (-128) (min 127 i))

/-- `asr(i, k)` (R10): `floor(i / 2^k)` on unbounded integers. -/
def asr (i : Int) (k : Nat) : Int := i / (2 ^ k : Nat)

/-- `Condition(raw)` (R153) with the current `dcOffset` and `scaleShift`. -/
def condition (dcOffset : Half) (scaleShift : BitVec 4) (raw : BitVec 12) : Byte :=
  sat8 (asr ((raw.toNat : Int) - (dcOffset.toNat : Int)) scaleShift.toNat)

/-- `sext_32` of a sample (R102). -/
def sext32 (v : Byte) : Word := v.signExtend 32

/-! ### Multi-byte quantities, most significant byte first (R72 iv) -/

/-- A 16-bit quantity as 2 bytes. -/
def be16 (h : Half) : List Byte := [h.extractLsb' 8 8, h.extractLsb' 0 8]

/-- A 24-bit quantity as 3 bytes. -/
def be24 (t : BitVec 24) : List Byte := [t.extractLsb' 16 8, t.extractLsb' 8 8, t.extractLsb' 0 8]

/-- A 32-bit quantity as 4 bytes. -/
def be32 (w : Word) : List Byte := [w.extractLsb' 24 8, w.extractLsb' 16 8, w.extractLsb' 8 8, w.extractLsb' 0 8]

/-! ### RF configuration -/

/-- `FreqWord(hz)` (R116): `(hz * 2^FREQ_SHIFT) div XTAL_HZ` on unbounded integers, cut to 32 bits. -/
def freqWord (b : Build) (hz : Word) : Word := BitVec.ofNat 32 (hz.toNat * 2 ^ b.freqShift / b.xtalHz)

/-- `PowerByte(level)` (R120): the table entry of `min(level, 6)`. -/
def powerByte (b : Build) (level : Byte) : Byte := b.pwrTable[min level.toNat 6]'(by omega)

/-- A flag as the byte 0x01 or 0x00. -/
def flagByte (v : Bool) : Byte := if v then 0x01 else 0x00

/-- `fixedLen`, bit 0 of `pktFlags` (R34). -/
def fixedLen (f : BitVec 3) : Bool := f.getLsbD 0

/-- `crcOn`, bit 1 of `pktFlags` (R34). -/
def crcOn (f : BitVec 3) : Bool := f.getLsbD 1

/-- `invertIq`, bit 2 of `pktFlags` (R34). -/
def invertIq (f : BitVec 3) : Bool := f.getLsbD 2

/-- The six bytes of the packet-parameters payload (R119): preamble length, header type, payload length, CRC, IQ. -/
def packetParams (l : Lora) (fixedHeader : Bool) (len : Byte) : List Byte :=
  be16 l.pktPreamble ++ [flagByte fixedHeader, len, flagByte (crcOn l.pktFlags), flagByte (invertIq l.pktFlags)]

/-- `(zext_32(lastAttempts) << 8) or zext_32(lastStatus)` (R253): the register `LLAST`. -/
def lastOutcome (l : Lora) : Word := (l.lastAttempts ++ l.lastStatus).setWidth 32

/-! ### Address registers -/

/-- `ADDR[i]` for an index of R31; `none` from 9 up (`ST_RANGE`). -/
def Codec.addrAt? (c : Codec) (i : Nat) : Option Ax25Address := c.addr[i]?

/-- `ADDR[i] <- A`; an index from 9 up writes nothing. -/
def Codec.setAddr (c : Codec) (i : Nat) (A : Ax25Address) : Codec := { c with addr := c.addr.setIfInBounds i A }

end Sys2Proof.Machine
end

