-- ==== Sys2Proof/Machine/LoraBus.lean ====
section
/-! DEFINITION. The procedures of the LoRa command/response sequencer (45_lora_primitives.md R241 to R247): one poll, one byte
transfer, the bounded busy wait, the write attempt, the read transaction, the write with retry; and the payload buffer. -/

namespace Sys2Proof.Machine

/-! ### The bus -/

/-- One poll of the busy pin, event `P(v)` (R241). -/
def pollBusy (s : State) : Bool × State :=
  let (v, s) := takeBusy s
  (v, s.logEvent (.poll v))

/-- `BusXfer(o)`, event `X(o, i)` (R241): the byte the chip returned, and the state after. -/
def busXfer (o : Byte) (s : State) : Byte × State :=
  let (i, s) := takeBusIn s
  (i, s.logEvent (.xfer o i))

/-- `WaitBusy(T)` (R243): at most `T` polls, up to the first that reads 0; `true` for idle, `false` for exhausted (a warning). -/
def waitBusy : Nat → State → Bool × State
  | 0, s => (false, logWarning s)
  | polls + 1, s =>
    let (v, s) := pollBusy s
    if v then waitBusy polls s else (true, s)

/-- `WaitBusySingle()` (R243). -/
def waitBusySingle (s : State) : Bool × State := waitBusy s.lora.busyTimeout.toNat s

/-- `WaitBusyPolled()` (R243). -/
def waitBusyPolled (s : State) : Bool × State := waitBusy s.build.pollAttempts s

/-! ### Transactions -/

/-- Send payload bytes, inspecting each returned byte, up to the first that is not `LS_OK` (R245). -/
def sendPayload : List Byte → State → LoraOutcome × State
  | [], s => (.ok, s)
  | o :: rest, s =>
    let (i, s) := busXfer o s
    match inspect s.build.chip i with
    | .ok => sendPayload rest s
    | bad => (bad, s)

/-- `WriteAttempt(opc, pay)` (R245): one bracketed write transaction. -/
def writeAttempt (opc : Byte) (pay : List Byte) (s : State) : LoraOutcome × State :=
  let (_, s) := waitBusySingle s
  let (_, s) := busXfer opc (selectChip s)
  let (st, s) := sendPayload pay s
  let (_, s) := waitBusySingle (deselectChip s)
  (st, s)

/-- The retry loop of `WriteCommand` (R247), with `left` attempts allowed after this one, which is number `k`: outcome and number of
the last attempt made. -/
def retryLoop (opc : Byte) (pay : List Byte) : Nat → Nat → State → LoraOutcome × Nat × State
  | left, k, s =>
    let (st, s) := writeAttempt opc pay s
    if st = .ok then (.ok, k, s)
    else
      let s := logWarning s
      match left with
      | 0 => (st, k, s)
      | left + 1 => retryLoop opc pay left (k + 1) s

/-- `WriteCommand(opc, pay)` (R247): up to `MAX_ATTEMPTS` attempts; a command given up is a logged failure and nothing more. -/
def writeCommand (opc : Byte) (pay : List Byte) (s : State) : State :=
  let (st, k, s) := retryLoop opc pay (s.build.maxAttempts - 1) 1 s
  let s := { s with lora.lastStatus := st.code, lora.lastAttempts := BitVec.ofNat 8 k }
  if st = .ok then s else logFailure s

/-- Transfers whose returned bytes are discarded. -/
def sendAll : List Byte → State → State
  | [], s => s
  | o :: rest, s =>
    let (_, s) := busXfer o s
    sendAll rest s

/-- `n` transfers of `o`, keeping the returned bytes. -/
def readBytes (o : Byte) : Nat → State → List Byte × State
  | 0, s => ([], s)
  | n + 1, s =>
    let (i, s) := busXfer o s
    let (rest, s) := readBytes o n s
    (i :: rest, s)

/-- `ReadTransaction(opc, pre, n)` (R246): one bracketed read transaction, never inspected. -/
def readTransaction (opc : Byte) (pre : List Byte) (n : Nat) (s : State) : List Byte × State :=
  let (_, s) := waitBusySingle s
  let (_, s) := busXfer opc (selectChip s)
  let s := sendAll pre s
  let s := sendAll (List.replicate s.build.chip.readSkip s.build.chip.nopByte) s
  let (data, s) := readBytes s.build.chip.nopByte n s
  let (_, s) := waitBusySingle (deselectChip s)
  (data, s)

/-! ### The payload buffer -/

/-- `LPB[0 .. n-1]`. -/
def lpbBytes (s : State) (n : Nat) : List Byte := Memory.bytes .lpb s.lora.lpb 0 n

/-- `LPB[0 ..] <- data; lpbLen <- length` (R254). -/
def storeLpb (data : List Byte) (s : State) : State :=
  { s with lora.lpb := Memory.writeFrom s.lora.lpb 0 data, lora.lpbLen := data.length }

/-- `respond(ST_OK, (zext_32(lastAttempts) << 8) or zext_32(lastStatus))` (R253). -/
def respondOutcome (s : State) : Result := s.respond .ok (lastOutcome s.lora)

end Sys2Proof.Machine
end

