-- ==== Sys2Proof/Machine/Avail.lean ====
section
/-! DEFINITION. The availability contract (47_availability_system.md R305 to R312): REQUIRE, RELEASE, bring-up and the events
PWRDOWN and SQUELCH. -/

namespace Sys2Proof.Machine

/-- Bring-up of the chip (R308): reset pulse, polled wait, then the nine write commands with the configuration registers. -/
def bringUpLora (s : State) : State :=
  let s := setLoraRst false (setLoraRst true s)
  let (_, s) := waitBusyPolled s
  let s := writeCommand s.build.chip.opcSetStandby [0x00] s
  let s := writeCommand s.build.chip.opcCalibrate [0x7F] s
  let s := writeCommand s.build.chip.opcSetPacketType [0x01] s
  let s := writeCommand s.build.chip.opcSetRfFrequency (be32 (freqWord s.build s.lora.cfgFreq)) s
  let s := writeCommand s.build.chip.opcSetTxParams [powerByte s.build s.lora.cfgPwr, s.build.pwrRamp] s
  let s := writeCommand s.build.chip.opcSetModulationParams
    [s.lora.cfgSf.setWidth 8, s.lora.cfgBw, s.lora.cfgCr.setWidth 8, 0x00] s
  let s := writeCommand s.build.chip.opcSetPacketParams (packetParams s.lora (fixedLen s.lora.pktFlags) 0xFF) s
  let s := writeCommand s.build.chip.opcSetBufferBase [0x00, 0x00] s
  let s := writeCommand s.build.chip.opcSetDioIrqParams
    (be16 s.build.chip.irqAll ++ [0x00, 0x00, 0x00, 0x00, 0x00, 0x00]) s
  let s := setPaEnable false { s with lora.loraMode := .standby }
  { s with avail.channelReady := true }

/-- Bring-up of the analog back end (R308): no carrier present, safe to transmit. -/
def bringUpAfsk (s : State) : State := { s with avail.channelReady := !s.env.squelchOpen }

/-- `BringUp()` (R308). -/
def bringUp (s : State) : State :=
  match s.build.backend with
  | .afsk => bringUpAfsk s
  | .lora => bringUpLora s

/-- REQUIRE (R306): counts; on 0 to 1 with the power off, powers up, brings up and signals "available". -/
def execRequire (s : State) : Result :=
  let was0 := s.avail.useCount = 0
  let s := { s with avail.useCount := satInc s.avail.useCount }
  let s :=
    if was0 then
      let s := { s with avail.pdPending := false }
      if s.avail.onOff = false then
        let s := bringUp (setOnOff true s)
        raiseEvt .avail { s with avail.available := true }
      else s
    else s
  s.respond .ok (s.avail.useCount.setWidth 32)

/-- RELEASE (R307): counts down to the floor 0; reaching 0 leaves a power-down owed. -/
def execRelease (s : State) : Result :=
  if s.avail.useCount = 0 then s.respond .ok 0
  else
    let s := { s with avail.useCount := s.avail.useCount - 1 }
    let s := if s.avail.useCount = 0 then { s with avail.pdPending := true } else s
    s.respond .ok (s.avail.useCount.setWidth 32)

/-- PWRDOWN is enabled (R309). -/
def powerDownEnabled (s : State) : Bool := s.avail.pdPending && s.avail.useCount == 0 && s.avail.txOff

/-- PWRDOWN (R309), the deferred power-down. -/
def powerDown (s : State) : State :=
  let s := setOnOff false s
  let s := { s with avail.available := false, avail.channelReady := false, avail.pdPending := false }
  let s :=
    match s.build.backend with
    | .afsk => s
    | .lora => setPaEnable false { s with lora.loraMode := .standby }
  raiseEvt .pwrDown s

/-- SQUELCH(v) (R310): acts in the AFSK build while available. -/
def squelchEdge (v : Bool) (s : State) : State :=
  if s.build.backend = .afsk ∧ s.avail.available then { s with avail.channelReady := !v } else s

end Sys2Proof.Machine
end

