-- ==== Sys2Proof/Machine/Ring.lean ====
section
/-! DEFINITION. The sample ring buffer operations (41_ring_buffer.md). -/

namespace Sys2Proof.Machine

/-- `NextFrame()` (R131): a new candidate frame at the write cursor. -/
def nextFrame (s : State) : State :=
  { s with ring.provisionalFrameStart := s.ring.writeCursor, ring.provisionalFrameLength := 0 }

/-- `Put(s)` (R132): store and advance, unless the cell is the oldest unread committed sample or the frame holds `N - 1` samples;
a dropped sample changes nothing. -/
def put (v : Byte) (s : State) : State :=
  if 0 < s.unread ∧ s.ring.writeCursor = s.ring.readCursor then s
  else if s.ring.provisionalFrameLength = s.build.ringCap - 1 then s
  else
    { s with
      ring.buf := Memory.write s.ring.buf s.ring.writeCursor v
      ring.writeCursor := (s.ring.writeCursor + 1) % s.build.ringCap
      ring.provisionalFrameLength := s.ring.provisionalFrameLength + 1 }

/-- RBNEXT (R131). -/
def execRbnext (s : State) : Result :=
  onRing s (if s.workerActive then s.refuse .busy else (nextFrame s).respond .ok 0)

/-- RBPUT (R132): `ST_OK` whether the sample was stored or dropped. -/
def execRbput (v : Byte) (s : State) : Result :=
  onRing s (if s.workerActive then s.refuse .busy else (put v s).respond .ok 0)

/-- RBGET (R133): no test of end of frame. -/
def execRbget (s : State) : Result :=
  onRing s
    ({ s with ring.readCursor := (s.ring.readCursor + 1) % s.build.ringCap }.respond .ok
      (sext32 (Memory.byteAt .buf s.ring.buf s.ring.readCursor)))

/-- RBEOF (R134). -/
def execRbeof (s : State) : Result :=
  onRing s (s.respond .ok (if s.eof then 1 else 0))

/-- RBRESET (R135). -/
def execRbreset (s : State) : Result :=
  onRing s ({ s with ring.readCursor := s.ring.committedFrameStart }.respond .ok 0)

/-- RBLAST (R136): the provisional markers become the committed ones and the reader goes to the frame's start. -/
def execRblast (s : State) : Result :=
  onRing s
    (if s.workerActive then s.refuse .busy
     else
      { s with
        ring.committedFrameStart := s.ring.provisionalFrameStart
        ring.committedFrameLength := s.ring.provisionalFrameLength
        ring.readCursor := s.ring.provisionalFrameStart }.respond .ok (BitVec.ofNat 32 s.ring.provisionalFrameLength))

end Sys2Proof.Machine
end

