-- ==== Sys2Proof/Machine/Capture.lean ====
section
/-! DEFINITION. The capture engine and the shared clock (42_capture_and_clock.md): CAPSTART, CAPSTOP, SETMODE, CLKSTOP and the
events TICK.RX and CAPSTEP. -/

namespace Sys2Proof.Machine

/-! ### The capture worker's procedures -/

/-- `Boundary()` (R161): discard and re-arm below `MIN_FRAME`, deliver from there on. -/
def boundary (s : State) : State :=
  if s.cap.capCount = 0 then s
  else if s.cap.capCount.toNat < s.build.minFrame then
    raiseEvt .discard { nextFrame s with cap.capCount := 0, cap.pendingBoundary := false }
  else
    raiseEvt .frame
      { s with
        cap.capLen := s.cap.capCount
        cap.capCount := 0
        cap.pendingBoundary := false
        cap.fragFill := 0
        cap.fragIdx := 0
        cap.capState := .done }

/-- `ProcessSample(e)` (R160): a valid sample of the audio channel is conditioned and shown to the detector, whose answer decides;
any other entry is skipped. -/
def processSample (e : AdcSample) (s : State) : State :=
  if e.valid ∧ e.chan = s.build.adcChan then
    let v := condition s.cap.dcOffset s.cap.scaleShift e.raw
    let (r, s) := takeDet { s with out.detSample := some v }
    if r then
      let s := put v s
      { s with cap.capCount := satInc s.cap.capCount }
    else if s.cap.capCount ≠ 0 then
      boundary { s with cap.pendingBoundary := true }
    else s
  else s

/-- The loop test of the capture: carrier present, or forced (R157). -/
def captureOpen (s : State) : Bool := s.env.squelchOpen || s.cap.capForce

/-- CAPSTEP is enabled (R157), in the AFSK build. -/
def capStepEnabled (s : State) : Bool :=
  s.build.backend == .afsk &&
    match s.cap.capState with
    | .wait => captureOpen s
    | .run => s.cap.fragFill == s.build.fragLen
    | .idle => false
    | .done => false

/-- CAPSTEP (R157), an enabled step of the capture worker: leave the wait for carrier, or process one fragment entry and, after
the last one, make the loop test. -/
def capStep (s : State) : State :=
  if s.cap.capState = .wait then
    { s with cap.capState := .run, cap.fragFill := 0, cap.fragIdx := 0 }
  else
    let e := Memory.fragAt s.cap.frag s.cap.fragIdx
    let s := processSample e { s with cap.fragIdx := s.cap.fragIdx + 1 }
    if s.cap.capState = .run ∧ s.cap.fragIdx = s.build.fragLen then
      let s := { s with cap.fragFill := 0, cap.fragIdx := 0 }
      if captureOpen s then s
      else
        let s := boundary s
        if s.cap.capState = .run then { s with cap.capState := .wait } else s
    else s

/-- TICK.RX (R152): one raw sample into the fragment buffer while a capture runs and there is room; else it is lost. -/
def tickRx (s : State) : State :=
  let (e, s) := takeAdc s
  if s.cap.capState = .run ∧ s.cap.fragFill < s.build.fragLen then
    { s with cap.frag := Memory.write s.cap.frag s.cap.fragFill e, cap.fragFill := s.cap.fragFill + 1 }
  else s

/-! ### Operations -/

/-- CAPSTART (R155). -/
def execCapstart (force : Bool) (s : State) : Result :=
  onRing s
    (if s.workerActive then s.refuse .busy
     else
      { nextFrame s with
        cap.capCount := 0
        cap.pendingBoundary := false
        cap.capForce := force
        cap.fragFill := 0
        cap.fragIdx := 0
        cap.capState := if s.env.squelchOpen || force then .run else .wait }.respond .ok 0)

/-- CAPSTOP (R156). -/
def execCapstop (s : State) : Result :=
  onRing s
    ({ s with
        cap.capState := .idle
        cap.pendingBoundary := false
        cap.capCount := 0
        cap.fragFill := 0
        cap.fragIdx := 0 }.respond .ok 0)

/-- SETMODE (R170): stop, flip and restart as one step. -/
def execSetmode (m : ClkMode) (s : State) : Result :=
  onAfsk s ({ s with clk := { clkRun := true, clkMode := m } }.respond .ok 0)

/-- CLKSTOP (R171). -/
def execClkstop (s : State) : Result :=
  onAfsk s ({ s with clk.clkRun := false }.respond .ok 0)

end Sys2Proof.Machine
end

