-- ==== Sys2Proof/Machine/Ax25.lean ====
section
/-! DEFINITION. The pure functions of the AX.25 codec: address strings (44_ax25_codec.md R204, R206, R225; 30_encoding.md R112)
and the wire form of an address (R109, R110, R215, R218). None reads the state. -/

namespace Sys2Proof.Machine

/-! ### Callsigns -/

/-- The six characters in order. -/
def Callsign.toList (c : Callsign) : List Byte := [c.c0, c.c1, c.c2, c.c3, c.c4, c.c5]

/-- The first six characters of a sequence, padded on the right with spaces (R109, R204). -/
def Callsign.ofList (l : List Byte) : Callsign :=
  { c0 := l.getD 0 0x20, c1 := l.getD 1 0x20, c2 := l.getD 2 0x20, c3 := l.getD 3 0x20, c4 := l.getD 4 0x20, c5 := l.getD 5 0x20 }

/-! ### Parsing (R204) -/

/-- `NormChar(c)`: bit 7 cleared, a lower-case letter made upper case. -/
def normChar (c : Byte) : Byte :=
  let d := c &&& 0x7F
  if 0x61 ≤ d ∧ d ≤ 0x7A then d - 0x20 else d

/-- A decimal digit character. -/
def isDigitChar (c : Byte) : Bool := 0x30 ≤ c && c ≤ 0x39

/-- The SSID of a digit sequence: decimal, reduced modulo 16 at every digit. -/
def digitsSsid (ds : List Byte) : Nat := ds.foldl (fun acc d => (acc * 10 + (d.toNat - 0x30)) % 16) 0

/-- `ParseAddr(t)`: leading spaces skipped, the callsign up to the first `-`, then the digits that follow it. -/
def parseAddr (t : List Byte) : Callsign × BitVec 4 :=
  let t := t.dropWhile (· == 0x20)
  let call := (t.takeWhile (· != 0x2D)).map normChar
  let ssid :=
    match t.dropWhile (· != 0x2D) with
    | [] => 0
    | _ :: ds => digitsSsid (ds.takeWhile isDigitChar)
  (Callsign.ofList call, BitVec.ofNat 4 ssid)

/-- A sequence split at every comma: k commas give k + 1 items (R224). -/
def splitCommas : List Byte → List (List Byte)
  | [] => [[]]
  | c :: cs =>
    if c = 0x2C then [] :: splitCommas cs
    else
      match splitCommas cs with
      | [] => [[c]]
      | item :: items => (c :: item) :: items

/-! ### Formatting (R206, R225) -/

/-- `Dec(n)` for an SSID: decimal, no leading zero. -/
def decSsid (ssid : BitVec 4) : List Byte :=
  if ssid.toNat < 10 then [0x30 + ssid.setWidth 8] else [0x31, 0x30 + (ssid.setWidth 8 - 10)]

/-- The `-SSID` suffix, omitted when the SSID is 0 (R112). -/
def ssidSuffix (ssid : BitVec 4) : List Byte := if ssid = 0 then [] else 0x2D :: decSsid ssid

/-- The characters without their trailing spaces; inner spaces stay. -/
def stripTrailing (l : List Byte) : List Byte := (l.reverse.dropWhile (· == 0x20)).reverse

/-- `FormatAddr(A)` (R206). -/
def formatAddr (A : Ax25Address) : List Byte := stripTrailing A.call.toList ++ ssidSuffix A.ssid

/-- `IsWide(A)` (R225): the callsign is `WIDE`, one digit and a space. -/
def isWide (A : Ax25Address) : Bool :=
  A.call.c0 == 0x57 && A.call.c1 == 0x49 && A.call.c2 == 0x44 && A.call.c3 == 0x45 && isDigitChar A.call.c4 && A.call.c5 == 0x20

/-- `FormatDigi(A, abbrev)` (R225). -/
def formatDigi (short : Bool) (A : Ax25Address) : List Byte :=
  if short && isWide A then
    let d := A.call.c4
    if (d = 0x31 ∧ A.ssid = 1) ∨ (d = 0x32 ∧ A.ssid = 2) then [0x57, d] else [0x57, d] ++ ssidSuffix A.ssid
  else formatAddr A

/-- Items joined by single commas (R225). -/
def joinCommas : List (List Byte) → List Byte
  | [] => []
  | [x] => x
  | x :: y :: rest => x ++ 0x2C :: joinCommas (y :: rest)

/-! ### The wire form of an address -/

/-- Byte 6 of an encoded address (R110, R215): the fixed bits, the SSID, the record's `FLAG_DIGI`, the computed last flag. -/
def wireByte6 (A : Ax25Address) (last : Bool) : Byte :=
  0x60 ||| A.ssid.setWidth 8 <<< 1 ||| (A.flags &&& 0x80) ||| (if last then 0x01 else 0x00)

/-- `EncodeAddr(A, last)` (R215) as its seven bytes. -/
def encodeAddr (A : Ax25Address) (last : Bool) : List Byte := A.call.toList.map (fun c : Byte => c <<< 1) ++ [wireByte6 A last]

/-- An address record from its seven bytes (R218): logical shift for the characters, bits 6:5 of byte 6 ignored. -/
def decodeAddr (b0 b1 b2 b3 b4 b5 b6 : Byte) : Ax25Address :=
  { call := { c0 := b0 >>> 1, c1 := b1 >>> 1, c2 := b2 >>> 1, c3 := b3 >>> 1, c4 := b4 >>> 1, c5 := b5 >>> 1 }
    ssid := b6.extractLsb' 1 4
    flags := b6 &&& 0x81 }

/-- The digipeater addresses of a path with the last one flagged (R215). -/
def encodePath : List Ax25Address → List Byte
  | [] => []
  | [A] => encodeAddr A true
  | A :: B :: rest => encodeAddr A false ++ encodePath (B :: rest)

end Sys2Proof.Machine
end

