-- ==== Sys2Proof/Machine/Codec.lean ====
section
/-! DEFINITION. The AX.25 codec operations (44_ax25_codec.md) over the address and frame registers and the two byte buffers. -/

namespace Sys2Proof.Machine

/-! ### The string buffer -/

/-- `STRB[0 .. strLen-1]`. -/
def strBytes (s : State) : List Byte := Memory.bytes .strb s.codec.strb 0 s.codec.strLen

/-- Replace the string buffer's content; the next STRGET reads its first byte (R206, R225). -/
def storeString (out : List Byte) (s : State) : State :=
  { s with codec.strb := Memory.writeFrom s.codec.strb 0 out, codec.strLen := out.length, codec.strRd := 0 }

/-- STRCLR (R201). -/
def execStrclr (s : State) : Result :=
  { s with codec.strLen := 0, codec.strRd := 0 }.respond .ok 0

/-- STRPUT (R202). -/
def execStrput (v : Byte) (s : State) : Result :=
  if s.codec.strLen = s.build.strCap then s.refuse .full
  else { s with codec.strb := Memory.write s.codec.strb s.codec.strLen v, codec.strLen := s.codec.strLen + 1 }.respond .ok 0

/-- STRGET (R203). -/
def execStrget (s : State) : Result :=
  if s.codec.strLen ≤ s.codec.strRd then s.refuse .empty
  else
    { s with codec.strRd := s.codec.strRd + 1 }.respond .ok ((Memory.byteAt .strb s.codec.strb s.codec.strRd).setWidth 32)

/-! ### Addresses -/

/-- `ADDR[i] <- A` in the state. -/
def State.setAddr (s : State) (i : Nat) (A : Ax25Address) : State := { s with codec := s.codec.setAddr i A }

/-- S2A (R205). -/
def execS2a (idx : Byte) (s : State) : Result :=
  if 8 < idx.toNat then s.refuse .range
  else
    let (call, ssid) := parseAddr (strBytes s)
    (s.setAddr idx.toNat { call := call, ssid := ssid, flags := 0 }).respond .ok 0

/-- A2S (R206). -/
def execA2s (idx : Byte) (s : State) : Result :=
  match s.codec.addrAt? idx.toNat with
  | none => s.refuse .range
  | some A => (storeString (formatAddr A) s).respond .ok (BitVec.ofNat 32 (formatAddr A).length)

/-- AXSSID (R207). -/
def execAxssid (idx v : Byte) (s : State) : Result :=
  match s.codec.addrAt? idx.toNat with
  | none => s.refuse .range
  | some A => (s.setAddr idx.toNat { A with ssid := v.extractLsb' 0 4 }).respond .ok 0

/-- AXFLG (R208). -/
def execAxflg (idx f : Byte) (s : State) : Result :=
  match s.codec.addrAt? idx.toNat with
  | none => s.refuse .range
  | some A => (s.setAddr idx.toNat { A with flags := f &&& 0x81 }).respond .ok 0

/-- AXRD (R209): SSID in 11:8, flags in 7:0. -/
def execAxrd (idx : Byte) (s : State) : Result :=
  match s.codec.addrAt? idx.toNat with
  | none => s.refuse .range
  | some A => s.respond .ok (A.ssid.setWidth 32 <<< 8 ||| A.flags.setWidth 32)

/-! ### Frame registers and the byte buffer -/

/-- AXNDIGI (R210). -/
def execAxndigi (n : BitVec 4) (s : State) : Result :=
  { s with codec.axNdigi := n }.respond .ok 0

/-- AXCTL (R211). -/
def execAxctl (ctrl pid : Byte) (s : State) : Result :=
  { s with codec.axCtrl := ctrl, codec.axPid := pid }.respond .ok 0

/-- AXBCLR (R212). -/
def execAxbclr (s : State) : Result :=
  { s with codec.axbLen := 0, codec.axbRd := 0 }.respond .ok 0

/-- `AxbEmit(v)` (R213): whether the byte was stored, and the state after. -/
def axbEmit (v : Byte) (s : State) : Bool × State :=
  if s.codec.axbLen = s.build.axbCap then (false, s)
  else (true, { s with codec.axb := Memory.write s.codec.axb s.codec.axbLen v, codec.axbLen := s.codec.axbLen + 1 })

/-- `AxbEmit` of each byte in turn: whether all were stored, and the state after. -/
def axbEmitAll : List Byte → State → Bool × State
  | [], s => (true, s)
  | v :: vs, s =>
    let (stored, s) := axbEmit v s
    let (rest, s) := axbEmitAll vs s
    (stored && rest, s)

/-- AXBPUT (R213). -/
def execAxbput (v : Byte) (s : State) : Result :=
  let (stored, t) := axbEmit v s
  if stored then t.respond .ok 0 else s.refuse .full

/-- AXBGET (R214). -/
def execAxbget (s : State) : Result :=
  if s.codec.axbLen ≤ s.codec.axbRd then s.refuse .empty
  else
    { s with codec.axbRd := s.codec.axbRd + 1 }.respond .ok ((Memory.byteAt .axb s.codec.axb s.codec.axbRd).setWidth 32)

/-- `AxbTake()` (R214): a read past the end is 0x00 and does not advance. -/
def axbTake (s : State) : Byte × State :=
  if s.codec.axbLen ≤ s.codec.axbRd then (0x00, s)
  else (Memory.byteAt .axb s.codec.axb s.codec.axbRd, { s with codec.axbRd := s.codec.axbRd + 1 })

/-! ### Encode and decode -/

/-- `min(axNdigi, 7)` (R210). -/
def digiCount (s : State) : Nat := min s.codec.axNdigi.toNat 7

/-- The digipeater records `ADDR[2 .. 2+n-1]`, in path order. -/
def digiPath (s : State) : List Ax25Address := (s.codec.addr.toList.drop 2).take (digiCount s)

/-- The header AXENC emits (R108, R215): destination, source, path, control byte, PID byte where the control byte has one. -/
def headerBytes (s : State) : List Byte :=
  encodeAddr s.codec.addr[0] false
    ++ encodeAddr s.codec.addr[1] (digiCount s == 0)
    ++ encodePath (digiPath s)
    ++ [s.codec.axCtrl]
    ++ (if hasPid s.codec.axCtrl then [s.codec.axPid] else [])

/-- AXENC (R215): the header is appended byte by byte; `ST_FULL` when some byte found no room. -/
def execAxenc (s : State) : Result :=
  let (stored, t) := axbEmitAll (headerBytes s) s
  t.respond (if stored then .ok else .full) (BitVec.ofNat 32 (t.codec.axbLen - s.codec.axbLen))

/-- `DecodeAddr()` (R218): seven calls of `AxbTake`. -/
def takeAddr (s : State) : Ax25Address × State :=
  let (b0, s) := axbTake s
  let (b1, s) := axbTake s
  let (b2, s) := axbTake s
  let (b3, s) := axbTake s
  let (b4, s) := axbTake s
  let (b5, s) := axbTake s
  let (b6, s) := axbTake s
  (decodeAddr b0 b1 b2 b3 b4 b5 b6, s)

/-- The digipeater loop of AXDEC (R218), with `room` addresses still allowed and `count` found: stops at the first one flagged
last, or when there is no more room. -/
def takePath : Nat → Nat → State → Nat × State
  | 0, count, s => (count, s)
  | room + 1, count, s =>
    let (A, s) := takeAddr s
    let s := s.setAddr (2 + count) A
    if A.flags.getLsbD 0 then (count + 1, s) else takePath room (count + 1) s

/-- AXDEC (R218). -/
def execAxdec (s : State) : Result :=
  let (dst, s) := takeAddr s
  let s := s.setAddr 0 dst
  let (src, s) := takeAddr s
  let s := s.setAddr 1 src
  let (count, s) := if src.flags.getLsbD 0 then (0, s) else takePath 7 0 s
  let (ctrl, s) := axbTake { s with codec.axNdigi := BitVec.ofNat 4 count }
  let s := { s with codec.axCtrl := ctrl }
  let (pid, s) := if hasPid ctrl then axbTake s else (0x00, s)
  { s with codec.axPid := pid }.respond .ok (BitVec.ofNat 32 count)

/-! ### Digipeater paths -/

/-- The items S2D takes from the string buffer (R224): none for an empty string, at most seven. -/
def pathItems (t : List Byte) : List (List Byte) := if t = [] then [] else (splitCommas t).take 7

/-- Store parsed path items in `ADDR[i ..]`. -/
def storePath : Nat → List (List Byte) → State → State
  | _, [], s => s
  | i, item :: items, s =>
    let (call, ssid) := parseAddr item
    storePath (i + 1) items (s.setAddr i { call := call, ssid := ssid, flags := 0 })

/-- S2D (R224). -/
def execS2d (s : State) : Result :=
  let items := pathItems (strBytes s)
  { storePath 2 items s with codec.axNdigi := BitVec.ofNat 4 items.length }.respond .ok (BitVec.ofNat 32 items.length)

/-- D2S (R225). -/
def execD2s (short : Bool) (s : State) : Result :=
  let out := joinCommas ((digiPath s).map (formatDigi short))
  (storeString out s).respond .ok (BitVec.ofNat 32 out.length)

end Sys2Proof.Machine
end

