-- ==== Sys2Proof/Machine/LoraOps.lean ====
section
/-! DEFINITION. The LoRa operations: the parameter buffer and the command primitives (45_lora_primitives.md R244, R250 to R258),
the packet path and the RF configuration (46_lora_packet_config.md). -/

namespace Sys2Proof.Machine

/-! ### Busy wait and parameter buffer -/

/-- LWAIT (R244). -/
def execLwait (form : WaitForm) (t : Half) (s : State) : Result :=
  onLora s
    (if form = .polled ∧ t ≠ 0 then s.refuse .range
     else
      let (idle, s) :=
        match form with
        | .polled => waitBusyPolled s
        | .single => if t = 0 then waitBusySingle s else waitBusy t.toNat s
      s.respond .ok (if idle then 1 else 0))

/-- LPBCLR (R250). -/
def execLpbclr (s : State) : Result :=
  onLora s ({ s with lora.lpbLen := 0 }.respond .ok 0)

/-- LPBPUT (R251). -/
def execLpbput (v : Byte) (s : State) : Result :=
  onLora s
    (if s.lora.lpbLen = s.build.lpbCap then s.refuse .full
     else { s with lora.lpb := Memory.write s.lora.lpb s.lora.lpbLen v, lora.lpbLen := s.lora.lpbLen + 1 }.respond .ok 0)

/-- LPBRD (R252). -/
def execLpbrd (idx : Byte) (s : State) : Result :=
  onLora s
    (if s.lora.lpbLen ≤ idx.toNat then s.refuse .range
     else s.respond .ok ((Memory.byteAt .lpb s.lora.lpb idx.toNat).setWidth 32))

/-! ### Command primitives -/

/-- LWCMD (R253). -/
def execLwcmd (opc n : Byte) (s : State) : Result :=
  onLora s
    (if s.lora.lpbLen < n.toNat then s.refuse .range
     else respondOutcome (writeCommand opc (lpbBytes s n.toNat) s))

/-- LRCMD (R254): the prefix bytes are read before the data replace the buffer's content. -/
def execLrcmd (opc p n : Byte) (s : State) : Result :=
  onLora s
    (if s.lora.lpbLen < p.toNat then s.refuse .range
     else
      let (data, s) := readTransaction opc (lpbBytes s p.toNat) n.toNat s
      (storeLpb data s).respond .ok (n.setWidth 32))

/-- LWREG (R255). -/
def execLwreg (addr : Half) (v : Byte) (s : State) : Result :=
  onLora s (respondOutcome (writeCommand s.build.chip.opcWriteRegister (be16 addr ++ [v]) s))

/-- LRREG (R256). -/
def execLrreg (addr : Half) (s : State) : Result :=
  onLora s
    (let (data, s) := readTransaction s.build.chip.opcReadRegister (be16 addr) 1 s
     s.respond .ok ((data.getD 0 0).setWidth 32))

/-- LWBUF (R257). -/
def execLwbuf (off n : Byte) (s : State) : Result :=
  onLora s
    (if s.lora.lpbLen < n.toNat then s.refuse .range
     else respondOutcome (writeCommand s.build.chip.opcWriteBuffer (off :: lpbBytes s n.toNat) s))

/-- LRBUF (R258). -/
def execLrbuf (off n : Byte) (s : State) : Result :=
  onLora s
    (let (data, s) := readTransaction s.build.chip.opcReadBuffer [off] n.toNat s
     (storeLpb data s).respond .ok (n.setWidth 32))

/-! ### Packet path -/

/-- LSEND (R272): the five steps in their order, whatever the outcome of each. -/
def execLsend (len : Byte) (s : State) : Result :=
  onLora s
    (if s.lora.lpbLen < len.toNat then s.refuse .range
     else
      let s := writeCommand s.build.chip.opcSetPacketParams (packetParams s.lora false len) s
      let s := writeCommand s.build.chip.opcClearIrqStatus (be16 s.build.chip.irqAll) s
      let s := writeCommand s.build.chip.opcWriteBuffer (0x00 :: lpbBytes s len.toNat) s
      let s := setPaEnable true s
      let s := writeCommand s.build.chip.opcSetTx (be24 s.build.txTimeout) s
      { s with lora.loraMode := .tx, avail.txOff := false }.respond .ok (len.setWidth 32))

/-- `GetIrq()` (R273): the chip's interrupt status. -/
def getIrq (s : State) : Half × State :=
  let (d, s) := readTransaction s.build.chip.opcGetIrqStatus [] 2 s
  (d.getD 0 0 ++ d.getD 1 0, s)

/-- LRECV (R274): 0 for a CRC or header error, for length 0 and for a length above the caller's capacity. -/
def execLrecv (cap : Half) (s : State) : Result :=
  onLora s
    (let (irq, s) := getIrq s
     if irq &&& (s.build.chip.irqCrcErr ||| s.build.chip.irqHeaderErr) ≠ 0 then s.respond .ok 0
     else
      let (d, s) := readTransaction s.build.chip.opcGetRxBufferStatus [] 2 s
      let len := d.getD 0 0
      let off := d.getD 1 0
      if len = 0 ∨ cap.toNat < len.toNat then s.respond .ok 0
      else
        let (data, s) := readTransaction s.build.chip.opcReadBuffer [off] len.toNat s
        (storeLpb data s).respond .ok (len.setWidth 32))

/-- `SetRx(t)` (R275). -/
def setRx (t : BitVec 24) (s : State) : State :=
  let s := writeCommand s.build.chip.opcClearIrqStatus (be16 s.build.chip.irqAll) s
  let s := setPaEnable false s
  let s := writeCommand s.build.chip.opcSetRx (be24 t) s
  { s with lora.rxTimeout := t, lora.loraMode := .rx }

/-- LSETRX (R275). -/
def execLsetrx (t : BitVec 24) (s : State) : Result :=
  onLora s ((setRx t s).respond .ok 0)

/-- LPOLL (R276). -/
def execLpoll (s : State) : Result :=
  onLora s
    (let (irq, s) := getIrq s
     match s.lora.loraMode with
     | .rx =>
       if irq &&& s.build.chip.irqRxDone ≠ 0 then
         (raiseEvt .lrxDone { s with lora.loraMode := .standby }).respond .ok 1
       else if irq &&& s.build.chip.irqTimeout ≠ 0 then
         (raiseEvt .lTimeout { s with lora.loraMode := .standby }).respond .ok 2
       else s.respond .ok 0
     | .tx =>
       if irq &&& (s.build.chip.irqTxDone ||| s.build.chip.irqTimeout) ≠ 0 then
         let sent := irq &&& s.build.chip.irqTxDone ≠ 0
         let s := raiseEvt (if sent then .ltxDone else .lTimeout) s
         let s := setPaEnable false s
         let s := { s with avail.txOff := true }
         (setRx s.lora.rxTimeout s).respond .ok (if sent then 3 else 2)
       else s.respond .ok 0
     | .standby => s.respond .ok 0)

/-! ### RF configuration and status queries -/

/-- LSETFREQ (R278). -/
def execLsetfreq (hz : Word) (s : State) : Result :=
  onLora s
    (let s := writeCommand s.build.chip.opcSetRfFrequency (be32 (freqWord s.build hz)) s
     respondOutcome { s with lora.cfgFreq := hz })

/-- LSETPWR (R279). -/
def execLsetpwr (level : Byte) (s : State) : Result :=
  onLora s
    (let s := writeCommand s.build.chip.opcSetTxParams [powerByte s.build level, s.build.pwrRamp] s
     respondOutcome { s with lora.cfgPwr := level })

/-- LRSSI (R280). -/
def execLrssi (s : State) : Result :=
  onLora s
    (let (d, s) := readTransaction s.build.chip.opcGetRssiInst [] 1 s
     s.respond .ok ((d.getD 0 0).setWidth 32))

/-- LPKTST (R281). -/
def execLpktst (s : State) : Result :=
  onLora s
    (let (d, s) := readTransaction s.build.chip.opcGetPacketStatus [] 3 s
     (storeLpb d s).respond .ok ((d.getD 0 0 ++ d.getD 1 0 ++ d.getD 2 0).setWidth 32))

end Sys2Proof.Machine
end

