-- ==== Sys2Proof/Machine/Modulator.lean ====
section
/-! DEFINITION. The AFSK tone modulator and TX bit clock (43_modulator.md): TXQPUSH, TXSTART, PTT and the event TICK.TX. -/

namespace Sys2Proof.Machine

/-- Take the next bit of the shift register, bit 0 first, or mark that there is none: the second half of `LoadNext()` (R183). -/
def loadBit (s : State) : State :=
  if 0 < s.tx.txBitsLeft then
    { s with
      tx.txCurBit := s.tx.txByte.getLsbD 0
      tx.txByte := s.tx.txByte >>> 1
      tx.txBitsLeft := s.tx.txBitsLeft - 1
      tx.txCurValid := true }
  else { s with tx.txCurValid := false }

/-- `LoadNext()` (R183): refill an empty shift register from the queue, then load the next bit. -/
def loadNext (s : State) : State :=
  match s.tx.txBitsLeft, s.tx.txq with
  | 0, b :: rest => loadBit { s with tx.txq := rest, tx.txByte := b, tx.txBitsLeft := 8 }
  | _, _ => loadBit s

/-- The other tone (R185). -/
def Tone.toggle (t : Tone) : Tone :=
  match t with
  | .mark => .space
  | .space => .mark

/-- `DeKey()` (R187). -/
def deKey (s : State) : State :=
  raiseEvt .txDone { s with tx.ptt := false, tx.toneOn := false, tx.txState := .idle, avail.txOff := true }

/-- TICK.TX (R186): emit the current bit (0 toggles, 1 holds), then load the next; de-key when the last load found nothing. -/
def tickTx (s : State) : State :=
  if s.tx.txState = .idle then s
  else if s.tx.txCurValid = false then deKey s
  else if s.tx.txCurBit = false then loadNext { s with tx.toneSel := s.tx.toneSel.toggle }
  else loadNext s

/-- TXQPUSH (R181). -/
def execTxqpush (v : Byte) (s : State) : Result :=
  onAfsk s
    (if s.tx.txq.length = s.build.txqDepth then s.refuse .full
     else { s with tx.txq := s.tx.txq ++ [v] }.respond .ok 0)

/-- TXSTART (R183): key up when there is a byte to send and nothing is being sent. -/
def execTxstart (s : State) : Result :=
  onAfsk s
    (if s.tx.txState = .keyed then s.respond .ok 0
     else if s.tx.txq.length = 0 then s.respond .ok 0
     else
      (loadNext { s with tx.ptt := true, tx.toneOn := true, avail.txOff := false, tx.txState := .keyed }).respond .ok 0)

/-- PTT (R189). -/
def execPtt (on : Bool) (s : State) : Result :=
  onAfsk s ({ s with tx.ptt := on, avail.txOff := !on }.respond .ok 0)

end Sys2Proof.Machine
end

