-- ==== Sys2Proof/Machine/RegFile.lean ====
section
/-! DEFINITION. The control and status register file (10_state.md R40): the index map, the build column, the fields a read returns,
the writable registers and their bits. -/

namespace Sys2Proof.Machine

/-- The registers of R40, by name. -/
inductive Reg where
  | id | caps | evt | evmask | clkctl | cond | usecnt | sql | logwarn | logfail
  | rbRd | rbWr | rbCstart | rbClen | rbPstart | rbPlen | rbCap
  | capst | capcnt | caplen | capmin | dcoff | scale | fragst
  | txst | txqlvl
  | axndigi | axctlpid | axblvl | strlvl
  | lmode | llast | lpblen | cfgfreq | cfgsf | cfgcr | cfgpwr | rxtmo | pktpre | pktflags | busytmo | retrymax | cfgbw
  deriving DecidableEq, Repr, Inhabited

/-- The index column of R40; `none` for an unassigned index. -/
def Reg.ofIndex (idx : Byte) : Option Reg :=
  match idx with
  | 0x00 => some .id
  | 0x01 => some .caps
  | 0x02 => some .evt
  | 0x03 => some .evmask
  | 0x04 => some .clkctl
  | 0x05 => some .cond
  | 0x06 => some .usecnt
  | 0x07 => some .sql
  | 0x08 => some .logwarn
  | 0x09 => some .logfail
  | 0x10 => some .rbRd
  | 0x11 => some .rbWr
  | 0x12 => some .rbCstart
  | 0x13 => some .rbClen
  | 0x14 => some .rbPstart
  | 0x15 => some .rbPlen
  | 0x16 => some .rbCap
  | 0x18 => some .capst
  | 0x19 => some .capcnt
  | 0x1A => some .caplen
  | 0x1B => some .capmin
  | 0x1C => some .dcoff
  | 0x1D => some .scale
  | 0x1E => some .fragst
  | 0x20 => some .txst
  | 0x21 => some .txqlvl
  | 0x30 => some .axndigi
  | 0x31 => some .axctlpid
  | 0x32 => some .axblvl
  | 0x33 => some .strlvl
  | 0x40 => some .lmode
  | 0x41 => some .llast
  | 0x42 => some .lpblen
  | 0x43 => some .cfgfreq
  | 0x44 => some .cfgsf
  | 0x45 => some .cfgcr
  | 0x46 => some .cfgpwr
  | 0x47 => some .rxtmo
  | 0x48 => some .pktpre
  | 0x49 => some .pktflags
  | 0x4A => some .busytmo
  | 0x4B => some .retrymax
  | 0x4C => some .cfgbw
  | _ => none

/-- The build column of R40: the one back end whose builds have the register, `none` where both do. -/
def Reg.backend? (r : Reg) : Option Backend :=
  match r with
  | .id | .caps | .evt | .evmask | .cond | .usecnt | .sql | .logwarn | .logfail => none
  | .axndigi | .axctlpid | .axblvl | .strlvl => none
  | .clkctl => some .afsk
  | .rbRd | .rbWr | .rbCstart | .rbClen | .rbPstart | .rbPlen | .rbCap => some .afsk
  | .capst | .capcnt | .caplen | .capmin | .dcoff | .scale | .fragst => some .afsk
  | .txst | .txqlvl => some .afsk
  | .lmode | .llast | .lpblen | .cfgfreq | .cfgsf | .cfgcr | .cfgpwr | .rxtmo => some .lora
  | .pktpre | .pktflags | .busytmo | .retrymax | .cfgbw => some .lora

/-- The build has the register. -/
def Reg.present (r : Reg) (b : Build) : Bool :=
  match r.backend? with
  | none => true
  | some k => k == b.backend

/-- One bit, as a word. -/
def bitWord (v : Bool) : Word := if v then 1 else 0

/-- A count, as a word. -/
def natWord (n : Nat) : Word := BitVec.ofNat 32 n

/-- `capState` as its two bits (R27). -/
def CapState.word (c : CapState) : Word :=
  match c with
  | .idle => 0
  | .wait => 1
  | .run => 2
  | .done => 3

/-- `loraMode` as its two bits (R34). -/
def LoraMode.word (m : LoraMode) : Word :=
  match m with
  | .standby => 0
  | .rx => 1
  | .tx => 2

/-- What a read of the register returns (R40): the fields in their bit positions, every other bit 0. -/
def Reg.read (r : Reg) (s : State) : Word :=
  match r with
  | .id => 0x41540100
  | .caps => bitWord (s.build.backend == .afsk) ||| bitWord (s.build.backend == .lora) <<< 1 ||| bitWord s.ring.rbEnabled <<< 2
  | .evt => s.events.evt.setWidth 32
  | .evmask => s.events.evmask.setWidth 32
  | .clkctl => bitWord s.clk.clkRun ||| bitWord (s.clk.clkMode == .tx) <<< 1
  | .cond =>
    bitWord s.avail.available ||| bitWord s.avail.channelReady <<< 1 ||| bitWord s.avail.txOff <<< 2
      ||| bitWord s.avail.onOff <<< 3 ||| bitWord s.avail.pdPending <<< 4
  | .usecnt => s.avail.useCount.setWidth 32
  | .sql => s.events.sqlLevel.setWidth 32
  | .logwarn => s.events.logWarn.setWidth 32
  | .logfail => s.events.logFail.setWidth 32
  | .rbRd => natWord s.ring.readCursor
  | .rbWr => natWord s.ring.writeCursor
  | .rbCstart => natWord s.ring.committedFrameStart
  | .rbClen => natWord s.ring.committedFrameLength
  | .rbPstart => natWord s.ring.provisionalFrameStart
  | .rbPlen => natWord s.ring.provisionalFrameLength
  | .rbCap => natWord s.build.ringCap
  | .capst => s.cap.capState.word ||| bitWord s.cap.capForce <<< 2 ||| bitWord s.cap.pendingBoundary <<< 3
  | .capcnt => s.cap.capCount
  | .caplen => s.cap.capLen
  | .capmin => natWord s.build.minFrame
  | .dcoff => s.cap.dcOffset.setWidth 32
  | .scale => s.cap.scaleShift.setWidth 32
  | .fragst => BitVec.ofNat 16 s.cap.fragIdx ++ BitVec.ofNat 16 s.cap.fragFill
  | .txst =>
    bitWord (s.tx.txState == .keyed) ||| bitWord s.tx.ptt <<< 1 ||| bitWord s.tx.toneOn <<< 2
      ||| bitWord (s.tx.toneSel == .space) <<< 3 ||| bitWord s.tx.txCurValid <<< 4 ||| bitWord s.tx.txCurBit <<< 5
      ||| (BitVec.ofNat 4 s.tx.txBitsLeft).setWidth 32 <<< 8 ||| s.tx.txByte.setWidth 32 <<< 16
  | .txqlvl => natWord s.tx.txq.length
  | .axndigi => s.codec.axNdigi.setWidth 32
  | .axctlpid => (s.codec.axCtrl ++ s.codec.axPid).setWidth 32
  | .axblvl => BitVec.ofNat 16 s.codec.axbRd ++ BitVec.ofNat 16 s.codec.axbLen
  | .strlvl => (BitVec.ofNat 8 s.codec.strRd ++ BitVec.ofNat 8 s.codec.strLen).setWidth 32
  | .lmode =>
    s.lora.loraMode.word ||| bitWord s.lora.paEnable <<< 2 ||| bitWord s.lora.csAsserted <<< 3 ||| bitWord s.lora.loraRst <<< 4
  | .llast => (s.lora.lastAttempts ++ s.lora.lastStatus).setWidth 32
  | .lpblen => natWord s.lora.lpbLen
  | .cfgfreq => s.lora.cfgFreq
  | .cfgsf => s.lora.cfgSf.setWidth 32
  | .cfgcr => s.lora.cfgCr.setWidth 32
  | .cfgpwr => s.lora.cfgPwr.setWidth 32
  | .rxtmo => s.lora.rxTimeout.setWidth 32
  | .pktpre => s.lora.pktPreamble.setWidth 32
  | .pktflags => s.lora.pktFlags.setWidth 32
  | .busytmo => s.lora.busyTimeout.setWidth 32
  | .retrymax => natWord s.build.maxAttempts
  | .cfgbw => s.lora.cfgBw.setWidth 32

/-- The bits of a register marked RW in R40; `none` for a read-only one. -/
def Reg.writeMask? (r : Reg) : Option Word :=
  match r with
  | .evmask => some 0x0000FFFF
  | .sql => some 0x000000FF
  | .dcoff => some 0x0000FFFF
  | .scale => some 0x0000000F
  | .cfgfreq => some 0xFFFFFFFF
  | .cfgsf => some 0x0000000F
  | .cfgcr => some 0x00000007
  | .cfgpwr => some 0x000000FF
  | .pktpre => some 0x0000FFFF
  | .pktflags => some 0x00000007
  | .busytmo => some 0x0000FFFF
  | .cfgbw => some 0x000000FF
  | .id | .caps | .evt | .clkctl | .cond | .usecnt | .logwarn | .logfail => none
  | .rbRd | .rbWr | .rbCstart | .rbClen | .rbPstart | .rbPlen | .rbCap => none
  | .capst | .capcnt | .caplen | .capmin | .fragst => none
  | .txst | .txqlvl => none
  | .axndigi | .axctlpid | .axblvl | .strlvl => none
  | .lmode | .llast | .lpblen | .rxtmo | .retrymax => none

/-- `x[idx] <- v` (R302) for a register marked RW; a read-only register is left as it is. -/
def Reg.write (r : Reg) (v : Word) (s : State) : State :=
  match r with
  | .evmask => { s with events.evmask := v.setWidth 16 }
  | .sql => { s with events.sqlLevel := v.setWidth 8 }
  | .dcoff => { s with cap.dcOffset := v.setWidth 16 }
  | .scale => { s with cap.scaleShift := v.setWidth 4 }
  | .cfgfreq => { s with lora.cfgFreq := v }
  | .cfgsf => { s with lora.cfgSf := v.setWidth 4 }
  | .cfgcr => { s with lora.cfgCr := v.setWidth 3 }
  | .cfgpwr => { s with lora.cfgPwr := v.setWidth 8 }
  | .pktpre => { s with lora.pktPreamble := v.setWidth 16 }
  | .pktflags => { s with lora.pktFlags := v.setWidth 3 }
  | .busytmo => { s with lora.busyTimeout := v.setWidth 16 }
  | .cfgbw => { s with lora.cfgBw := v.setWidth 8 }
  | .id | .caps | .evt | .clkctl | .cond | .usecnt | .logwarn | .logfail => s
  | .rbRd | .rbWr | .rbCstart | .rbClen | .rbPstart | .rbPlen | .rbCap => s
  | .capst | .capcnt | .caplen | .capmin | .fragst => s
  | .txst | .txqlvl => s
  | .axndigi | .axctlpid | .axblvl | .strlvl => s
  | .lmode | .llast | .lpblen | .rxtmo | .retrymax => s

end Sys2Proof.Machine
end

