-- ==== Sys2Proof/Machine/System.lean ====
section
/-! DEFINITION. The system operations (47_availability_system.md R300 to R304). -/

namespace Sys2Proof.Machine

/-- NOP (R300). -/
def execNop (s : State) : Result := s.respond .ok 0

/-- RDREG (R301). -/
def execRdreg (idx : Byte) (s : State) : Result :=
  match Reg.ofIndex idx with
  | none => s.refuse .range
  | some r => if r.present s.build then s.respond .ok (r.read s) else s.refuse .absent

/-- WRREG (R302). -/
def execWrreg (idx : Byte) (v : Word) (s : State) : Result :=
  match Reg.ofIndex idx with
  | none => s.refuse .range
  | some r =>
    if r.present s.build then
      match r.writeMask? with
      | none => s.refuse .range
      | some m => if v &&& ~~~m = 0 then (r.write v s).respond .ok 0 else s.refuse .range
    else s.refuse .absent

/-- EVCLR (R303): the response carries the flags as they were. -/
def execEvclr (m : Half) (s : State) : Result :=
  { s with events.evt := s.events.evt &&& ~~~m }.respond .ok (s.events.evt.setWidth 32)

/-- SRESET (R304, R362). -/
def execSreset (s : State) : Result := s.restart.respond .ok 0

end Sys2Proof.Machine
end

