-- ==== Sys2Proof/Machine/Dispatch.lean ====
section
/-! DEFINITION. One arm for each operation of the opcode table (30_encoding.md R104): a direct call of its meaning. -/

namespace Sys2Proof.Machine

def exec (i : Instr) (s : State) : Host.Outcome State Fault Refusal :=
  match i with
  | .nop => Sys2Proof.Machine.execNop s
  | .rdreg idx => Sys2Proof.Machine.execRdreg idx s
  | .wrreg idx v => Sys2Proof.Machine.execWrreg idx v s
  | .evclr m => Sys2Proof.Machine.execEvclr m s
  | .sreset => Sys2Proof.Machine.execSreset s
  | .setmode m => Sys2Proof.Machine.execSetmode m s
  | .clkstop => Sys2Proof.Machine.execClkstop s
  | .require => Sys2Proof.Machine.execRequire s
  | .release => Sys2Proof.Machine.execRelease s
  | .ptt on => Sys2Proof.Machine.execPtt on s
  | .rbnext => Sys2Proof.Machine.execRbnext s
  | .rbput v => Sys2Proof.Machine.execRbput v s
  | .rbget => Sys2Proof.Machine.execRbget s
  | .rbeof => Sys2Proof.Machine.execRbeof s
  | .rbreset => Sys2Proof.Machine.execRbreset s
  | .rblast => Sys2Proof.Machine.execRblast s
  | .capstart force => Sys2Proof.Machine.execCapstart force s
  | .capstop => Sys2Proof.Machine.execCapstop s
  | .txqpush v => Sys2Proof.Machine.execTxqpush v s
  | .txstart => Sys2Proof.Machine.execTxstart s
  | .strclr => Sys2Proof.Machine.execStrclr s
  | .strput v => Sys2Proof.Machine.execStrput v s
  | .strget => Sys2Proof.Machine.execStrget s
  | .s2a idx => Sys2Proof.Machine.execS2a idx s
  | .a2s idx => Sys2Proof.Machine.execA2s idx s
  | .axflg idx f => Sys2Proof.Machine.execAxflg idx f s
  | .axrd idx => Sys2Proof.Machine.execAxrd idx s
  | .axssid idx v => Sys2Proof.Machine.execAxssid idx v s
  | .axndigi n => Sys2Proof.Machine.execAxndigi n s
  | .axctl ctrl pid => Sys2Proof.Machine.execAxctl ctrl pid s
  | .axenc => Sys2Proof.Machine.execAxenc s
  | .axdec => Sys2Proof.Machine.execAxdec s
  | .s2d => Sys2Proof.Machine.execS2d s
  | .d2s short => Sys2Proof.Machine.execD2s short s
  | .axbclr => Sys2Proof.Machine.execAxbclr s
  | .axbput v => Sys2Proof.Machine.execAxbput v s
  | .axbget => Sys2Proof.Machine.execAxbget s
  | .lpbclr => Sys2Proof.Machine.execLpbclr s
  | .lpbput v => Sys2Proof.Machine.execLpbput v s
  | .lpbrd idx => Sys2Proof.Machine.execLpbrd idx s
  | .lwcmd opc n => Sys2Proof.Machine.execLwcmd opc n s
  | .lrcmd opc p n => Sys2Proof.Machine.execLrcmd opc p n s
  | .lwreg addr v => Sys2Proof.Machine.execLwreg addr v s
  | .lrreg addr => Sys2Proof.Machine.execLrreg addr s
  | .lwbuf off n => Sys2Proof.Machine.execLwbuf off n s
  | .lrbuf off n => Sys2Proof.Machine.execLrbuf off n s
  | .lsend len => Sys2Proof.Machine.execLsend len s
  | .lrecv cap => Sys2Proof.Machine.execLrecv cap s
  | .lsetrx t => Sys2Proof.Machine.execLsetrx t s
  | .lpoll => Sys2Proof.Machine.execLpoll s
  | .lsetfreq hz => Sys2Proof.Machine.execLsetfreq hz s
  | .lsetpwr level => Sys2Proof.Machine.execLsetpwr level s
  | .lrssi => Sys2Proof.Machine.execLrssi s
  | .lpktst => Sys2Proof.Machine.execLpktst s
  | .lwait form t => Sys2Proof.Machine.execLwait form t s

end Sys2Proof.Machine
end

