-- ==== Sys2Proof/Machine/Schedule.lean ====
section
/-! DEFINITION. The steps of the block (20_memory.md R80) as the agenda offers them: an accepted command word, a tick, a step of a
worker, a squelch edge, an edge of `rst_n`; and how the next command word is fetched and placed. -/

namespace Sys2Proof.Machine

/-- An accepted command word (30_encoding.md R100, R105): decoded and run; a word that is no operation answers `ST_ILLEGAL` and
changes nothing (R106). -/
def runWord (w : CmdWord) (s : State) : Result :=
  match decode w with
  | .ok i => exec i s
  | .error _ => s.refuse .illegal

/-- A tick of the periodic clock, in the AFSK build while it runs (42_capture_and_clock.md R152, 43_modulator.md R186): the variant
is chosen by `clkMode`. A clock that is stopped or absent takes no step. -/
def runTick (s : State) : State :=
  if s.build.backend = .afsk ∧ s.clk.clkRun then
    match s.clk.clkMode with
    | .rx => tickRx s
    | .tx => tickTx s
  else s

/-- The capture worker, when scheduled: its step if enabled (R157), else none. -/
def runCapStep (s : State) : State := if capStepEnabled s then capStep s else s

/-- The power-down worker, when scheduled: its step if enabled (47_availability_system.md R309), else none. -/
def runPowerDown (s : State) : State := if powerDownEnabled s then powerDown s else s

/-- `rst_n` falls between two steps (70_reset_and_hazards.md R360): every output is at its reset level, and stays there while the
pin is low. -/
def resetLow (s : State) : State := { s.restart with env.rstN := false }

/-- `rst_n` rises (R360): every register at its reset value, `rb_alloc_ok` sampled now. A pin that is high already does not rise. -/
def resetHigh (s : State) : State := if s.env.rstN then s else { s.restart with env.rstN := true }

/-- `rst_n` falls inside the operation of word `w`, after the first `k` events of its sequence (R362): no response, the trace ends
where it was cut, every register at its reset value. A memory holds what the operation had written: an operation with bus events
writes its memory after the last of them. -/
def runCut (w : CmdWord) (k : Nat) (s : State) : Result :=
  match runWord w s with
  | .next t =>
    let kept := if k < t.out.trace.length then { s with env := t.env } else t
    .next { resetLow kept with out := { StepOut.none with trace := t.out.trace.take k } }
  | .fault r => .fault r
  | .refused r => .refused r

/-- While `rst_n` is 0 no command is accepted and no event is enabled (R360). -/
def whileUp (s : State) (k : Result) : Result := if s.env.rstN then k else .next s

/-- One entry of the agenda. -/
def runStimulus (e : Stimulus) (s : State) : Result :=
  match e with
  | .command w => whileUp s (runWord w s)
  | .tick => whileUp s (.next (runTick s))
  | .capStep => whileUp s (.next (runCapStep s))
  | .squelchEdge v => whileUp { s with env.squelchOpen := v } (.next (squelchEdge v { s with env.squelchOpen := v }))
  | .powerDown => whileUp s (.next (runPowerDown s))
  | .resetLow => .next (resetLow s)
  | .resetHigh => .next (resetHigh s)
  | .resetDuring w k => whileUp s (runCut w k s)
  | .squelchPin v => .next { s with env.squelchOpen := v }
  | .allocPin v => .next { s with env.rbAllocOk := v }

/-- The state in which an agenda entry runs: the entry taken off, the outputs of the step before cleared. -/
def State.begin (s : State) (rest : List Stimulus) : State := { s with env.agenda := rest, out := StepOut.none }

/-- One step: the next agenda entry, or, with nothing offered, a step in which nothing happens (log entry 4). -/
def runNext (s : State) : Result :=
  match s.env.agenda with
  | [] => .next (s.begin [])
  | e :: rest => runStimulus e (s.begin rest)

/-- The agenda with a table word offered as the very next command (its bits above `nbits` are 0), and `rst_n` high, without which
no command is accepted. -/
def State.offerWord (s : State) (nbits w : Nat) : State :=
  { s with env.agenda := .command (BitVec.ofNat 48 (w % 2 ^ nbits)) :: s.env.agenda, env.rstN := true }

end Sys2Proof.Machine
end

