-- ==== Sys2Proof/Machine/Step.lean ====
section
/-! DEFINITION. One step of the block, and the placing of an instruction where the next step takes it. -/

namespace Sys2Proof.Machine

/-- One step of the block (20_memory.md R80): what the head of the agenda offers. -/
def step (s : State) : Host.Outcome State Fault Refusal := runNext s

/-- `s` with the instruction offered at the command port as the very next step. -/
def State.withFetchWord (s : State) (nbits w : Nat) : State := s.offerWord nbits w

end Sys2Proof.Machine
end

