-- ==== Sys2Proof/Machine/Ports.lean ====
section
/-! DEFINITION. The levels of the output ports (10_state.md R61, R62) as functions of the state. The pulsed outputs of the last step
(`rsp_valid` and `rsp_data`, `det_strobe` and `det_sample`, `bus_strobe` and `bus_out`) are its field `out`. -/

namespace Sys2Proof.Machine

/-- The output pins that hold a level. -/
structure Levels where
  cmdReady : Bool
  irq      : Bool
  toneOn   : Bool
  toneSel  : Tone
  ptt      : Bool
  radioPwr : Bool
  loraCsN  : Bool
  loraRstN : Bool
  paEn     : Bool
  deriving DecidableEq, Repr

/-- The pins between two steps (R61). An operation is one atomic step (R80), so `cmd_ready` is 1 between steps (R100) but while
`rst_n` is 0 (R360). -/
def State.levels (s : State) : Levels :=
  { cmdReady := s.env.rstN
    irq := s.irq
    toneOn := s.tx.toneOn
    toneSel := s.tx.toneSel
    ptt := s.tx.ptt
    radioPwr := s.avail.onOff
    loraCsN := !s.lora.csAsserted
    loraRstN := !s.lora.loraRst
    paEn := s.lora.paEnable }

/-- `rsp_data` while `rsp_valid` (R61, R103): the response word of the last step, if it was an operation. -/
def State.rspData (s : State) : Option RspWord := s.out.rsp.map Response.word

end Sys2Proof.Machine
end

