-- ==== Sys2Proof/Safety.lean ====
section
/-! DEFINITION. The terms in which claims about the block are stated: the invariant `Inv` of every state the block reaches; which
engine an operation belongs to; the register map of 10_state.md R40 as a table; the inputs an engine takes and the bytes a store
leaves; and the bus traces of 45_lora_primitives.md as a grammar, written from the rules and not from the sequencer's functions. -/

namespace Sys2Proof.Machine

/-! ### The invariant -/

/-- No cell outside `0 .. n-1` has been written. -/
def Memory.Within {α : Type} (m : Memory α) (n : Nat) : Prop := ∀ c ∈ m, c.1 < n

/-- A callsign of 7-bit characters: what every writer of `call` produces (44_ax25_codec.md R204, R215 ii, R218). -/
def Callsign.Is7Bit (c : Callsign) : Prop := ∀ x ∈ c.toList, x &&& 0x80 = 0

/-- The ring: cursors in `[0, N-1]` (R22), lengths at most `N - 1` and the write cursor at the end of the provisional frame
(R24), cells only inside the ring (R71). -/
structure RingInv (b : Build) (r : Ring) : Prop where
  readCursor_lt  : r.readCursor < b.ringCap
  writeCursor_eq : r.writeCursor = (r.provisionalFrameStart + r.provisionalFrameLength) % b.ringCap
  committed_lt   : r.committedFrameStart < b.ringCap
  provisional_lt : r.provisionalFrameStart < b.ringCap
  committed_le   : r.committedFrameLength ≤ b.ringCap - 1
  provisional_le : r.provisionalFrameLength ≤ b.ringCap - 1
  buf_wf         : Memory.wf r.buf = true
  buf_within     : Memory.Within r.buf b.ringCap
  enabled_afsk   : r.rbEnabled = true → b.backend = .afsk

/-- The capture engine: the fragment counters (R27), a fragment processed only when full (R157), nothing counted or buffered
outside `CAP_RUN` (R152 ii), `pendingBoundary` 0 between steps (R160 v). -/
structure CaptureInv (b : Build) (c : Capture) : Prop where
  fill_le     : c.fragFill ≤ b.fragLen
  idx_lt      : c.fragIdx < b.fragLen
  idx_full    : c.fragIdx = 0 ∨ c.fragFill = b.fragLen
  pending     : c.pendingBoundary = false
  idle_empty  : c.capState ≠ .run → c.capCount = 0 ∧ c.fragFill = 0 ∧ c.fragIdx = 0
  frag_wf     : Memory.wf c.frag = true
  frag_within : Memory.Within c.frag b.fragLen

/-- The modulator: at most 8 bits in the shift register (R29), at most `TXQ_DEPTH` bytes queued (R30), the tone on exactly while
keyed (R183, R187), a current bit missing only when the register is empty (R183). -/
structure ModulatorInv (b : Build) (m : Modulator) : Prop where
  bits_le   : m.txBitsLeft ≤ 8
  queue_le  : m.txq.length ≤ b.txqDepth
  tone      : m.toneOn = true ↔ m.txState = .keyed
  idle      : m.txState = .idle → m.txCurValid = false
  exhausted : m.txCurValid = false → m.txBitsLeft = 0

/-- The codec: read index within the bytes stored, within the capacity (R33); of an address record's flags only bits 7 and 0, its
characters 7-bit (R31, R215 ii). -/
structure CodecInv (b : Build) (c : Codec) : Prop where
  axbRd_le   : c.axbRd ≤ c.axbLen
  axbLen_le  : c.axbLen ≤ b.axbCap
  strRd_le   : c.strRd ≤ c.strLen
  strLen_le  : c.strLen ≤ b.strCap
  axb_wf     : Memory.wf c.axb = true
  axb_within : Memory.Within c.axb b.axbCap
  strb_wf    : Memory.wf c.strb = true
  strb_within : Memory.Within c.strb b.strCap
  flags      : ∀ A ∈ c.addr.toList, A.flags &&& 0x7E = 0
  chars      : ∀ A ∈ c.addr.toList, A.call.Is7Bit

/-- The command channel between operations: chip deselected (R241), no reset pulse (R308), PA enabled exactly while the mirror
says TX (R272, R275, R276), the buffer within its capacity and the outcome registers within their values (R34). -/
structure LoraInv (b : Build) (l : Lora) : Prop where
  deselected  : l.csAsserted = false
  noReset     : l.loraRst = false
  pa          : l.paEnable = true ↔ l.loraMode = .tx
  lpbLen_le   : l.lpbLen ≤ b.lpbCap
  lpb_wf      : Memory.wf l.lpb = true
  lpb_within  : Memory.Within l.lpb b.lpbCap
  attempts_le : l.lastAttempts.toNat ≤ b.maxAttempts
  status_le   : l.lastStatus.toNat ≤ 4

/-- The availability contract (R35, R309, R310): power on while in use, and on only while in use or owed a power-down. -/
structure AvailInv (a : Avail) : Prop where
  used_on      : a.useCount ≠ 0 → a.onOff = true
  on_used      : a.onOff = true → a.useCount ≠ 0 ∨ a.pdPending = true
  pending      : a.pdPending = true → a.useCount = 0 ∧ a.onOff = true
  available    : a.available = a.onOff
  channelReady : a.channelReady = true → a.available = true

/-- What holds in every state the block reaches, between steps. -/
structure Inv (s : State) : Prop where
  build   : s.build.wf
  ring    : RingInv s.build s.ring
  cap     : CaptureInv s.build s.cap
  tx      : ModulatorInv s.build s.tx
  codec   : CodecInv s.build s.codec
  lora    : LoraInv s.build s.lora
  avail   : AvailInv s.avail
  /-- the transmit-enable and the condition "tx off" are opposite in the AFSK build (R189 iii) -/
  ptt     : s.build.backend = .afsk → s.avail.txOff = !s.tx.ptt
  /-- the reserved bits of `EVT` read 0 (R36) -/
  evt     : s.events.evt &&& 0xF800 = 0

/-! ### Operations by engine (the build column of R104) -/

/-- Opcodes of the AFSK build alone: SETMODE, CLKSTOP, PTT, the ring, the capture engine, the modulator. -/
def isAfskOp (i : Instr) : Bool :=
  opcodeOf i == 0x05 || opcodeOf i == 0x06 || opcodeOf i == 0x09 || (0x10 ≤ opcodeOf i && opcodeOf i ≤ 0x31)

/-- Opcodes of the LORA build alone. -/
def isLoraOp (i : Instr) : Bool := decide (0x60 ≤ opcodeOf i)

/-- Opcodes 0x10 to 0x21, gated by `rbEnabled` (R105). -/
def isRingOp (i : Instr) : Bool := 0x10 ≤ opcodeOf i && opcodeOf i ≤ 0x21

/-- The codec operations, opcodes 0x40 to 0x50. -/
def isCodecOp (i : Instr) : Bool := 0x40 ≤ opcodeOf i && opcodeOf i ≤ 0x50

/-- The operation's engine is in the build (R9). -/
def builtIn (i : Instr) (b : Build) : Bool :=
  match b.backend with
  | .afsk => !isLoraOp i
  | .lora => !isAfskOp i

/-- A run of operations, each answered before the next is accepted (R100); `none` if one of them does not answer a next state. -/
def runOps : List Instr → State → Option State
  | [], s => some s
  | i :: is, s =>
    match exec i s with
    | .next t => runOps is t
    | .fault _ => none
    | .refused _ => none

/-- The response values of a run of operations, in order. -/
def runAnswers : List Instr → State → List (Option Response)
  | [], _ => []
  | i :: is, s =>
    match exec i s with
    | .next t => t.out.rsp :: runAnswers is t
    | .fault _ => []
    | .refused _ => []

/-- `n` steps of the block (R80); `none` if one of them does not answer a next state. -/
def runSteps : Nat → State → Option State
  | 0, s => some s
  | n + 1, s =>
    match step s with
    | .next t => runSteps n t
    | .fault _ => none
    | .refused _ => none

/-- The operation an agenda entry offers, if it is a command word of one. -/
def Stimulus.instr? (e : Stimulus) : Option Instr :=
  match e with
  | .command w => (decode w).toOption
  | .tick => none
  | .capStep => none
  | .squelchEdge _ => none
  | .powerDown => none
  | .resetLow => none
  | .resetHigh => none
  | .resetDuring _ _ => none
  | .squelchPin _ => none
  | .allocPin _ => none

/-- What may come between the reads of a committed frame (R137): no reset, no next commit (RBLAST), no rewind (RBRESET). -/
def Stimulus.keepsFrame (e : Stimulus) : Bool :=
  match e with
  | .command _ => e.instr? != some .sreset && e.instr? != some .rblast && e.instr? != some .rbreset
  | .tick => true
  | .capStep => true
  | .squelchEdge _ => true
  | .powerDown => true
  | .resetLow => false
  | .resetHigh => false
  | .resetDuring _ _ => false
  | .squelchPin _ => true
  | .allocPin _ => true

/-! ### The register map (R40) -/

/-- One bit at position `k` of a register word. -/
def bitAt (k : Nat) (v : Bool) : Word := if v then 1 <<< k else 0

/-- A row of R40: the index, the one back end whose build has the register (`none`: both), the bits a write may set (`none`: not
marked RW) and the fields a read returns. -/
structure RegRow where
  idx   : Byte
  back  : Option Backend
  write : Option Word
  value : State → Word

/-- The rows both builds have. -/
def registerMapBoth : List RegRow :=
  [ ⟨0x00, none, none, fun _ => 0x41540100⟩,
    ⟨0x01, none, none, fun s =>
      bitAt 0 (s.build.backend == .afsk) ||| bitAt 1 (s.build.backend == .lora) ||| bitAt 2 s.ring.rbEnabled⟩,
    ⟨0x02, none, none, fun s => s.events.evt.setWidth 32⟩,
    ⟨0x03, none, some 0xFFFF, fun s => s.events.evmask.setWidth 32⟩,
    ⟨0x05, none, none, fun s =>
      bitAt 0 s.avail.available ||| bitAt 1 s.avail.channelReady ||| bitAt 2 s.avail.txOff ||| bitAt 3 s.avail.onOff
        ||| bitAt 4 s.avail.pdPending⟩,
    ⟨0x06, none, none, fun s => s.avail.useCount.setWidth 32⟩,
    ⟨0x07, none, some 0xFF, fun s => s.events.sqlLevel.setWidth 32⟩,
    ⟨0x08, none, none, fun s => s.events.logWarn.setWidth 32⟩,
    ⟨0x09, none, none, fun s => s.events.logFail.setWidth 32⟩,
    ⟨0x30, none, none, fun s => s.codec.axNdigi.setWidth 32⟩,
    ⟨0x31, none, none, fun s => (s.codec.axCtrl ++ s.codec.axPid).setWidth 32⟩,
    ⟨0x32, none, none, fun s => BitVec.ofNat 16 s.codec.axbRd ++ BitVec.ofNat 16 s.codec.axbLen⟩,
    ⟨0x33, none, none, fun s => (BitVec.ofNat 8 s.codec.strRd ++ BitVec.ofNat 8 s.codec.strLen).setWidth 32⟩ ]

/-- The rows of the AFSK build. -/
def registerMapAfsk : List RegRow :=
  [ ⟨0x04, some .afsk, none, fun s => bitAt 0 s.clk.clkRun ||| bitAt 1 (s.clk.clkMode == .tx)⟩,
    ⟨0x10, some .afsk, none, fun s => BitVec.ofNat 32 s.ring.readCursor⟩,
    ⟨0x11, some .afsk, none, fun s => BitVec.ofNat 32 s.ring.writeCursor⟩,
    ⟨0x12, some .afsk, none, fun s => BitVec.ofNat 32 s.ring.committedFrameStart⟩,
    ⟨0x13, some .afsk, none, fun s => BitVec.ofNat 32 s.ring.committedFrameLength⟩,
    ⟨0x14, some .afsk, none, fun s => BitVec.ofNat 32 s.ring.provisionalFrameStart⟩,
    ⟨0x15, some .afsk, none, fun s => BitVec.ofNat 32 s.ring.provisionalFrameLength⟩,
    ⟨0x16, some .afsk, none, fun s => BitVec.ofNat 32 s.build.ringCap⟩,
    ⟨0x18, some .afsk, none, fun s =>
      (match s.cap.capState with | .idle => 0 | .wait => 1 | .run => 2 | .done => 3)
        ||| bitAt 2 s.cap.capForce ||| bitAt 3 s.cap.pendingBoundary⟩,
    ⟨0x19, some .afsk, none, fun s => s.cap.capCount⟩,
    ⟨0x1A, some .afsk, none, fun s => s.cap.capLen⟩,
    ⟨0x1B, some .afsk, none, fun s => BitVec.ofNat 32 s.build.minFrame⟩,
    ⟨0x1C, some .afsk, some 0xFFFF, fun s => s.cap.dcOffset.setWidth 32⟩,
    ⟨0x1D, some .afsk, some 0xF, fun s => s.cap.scaleShift.setWidth 32⟩,
    ⟨0x1E, some .afsk, none, fun s => BitVec.ofNat 16 s.cap.fragIdx ++ BitVec.ofNat 16 s.cap.fragFill⟩,
    ⟨0x20, some .afsk, none, fun s =>
      bitAt 0 (s.tx.txState == .keyed) ||| bitAt 1 s.tx.ptt ||| bitAt 2 s.tx.toneOn ||| bitAt 3 (s.tx.toneSel == .space)
        ||| bitAt 4 s.tx.txCurValid ||| bitAt 5 s.tx.txCurBit ||| (BitVec.ofNat 4 s.tx.txBitsLeft).setWidth 32 <<< 8
        ||| s.tx.txByte.setWidth 32 <<< 16⟩,
    ⟨0x21, some .afsk, none, fun s => BitVec.ofNat 32 s.tx.txq.length⟩ ]

/-- The rows of the LORA build. -/
def registerMapLora : List RegRow :=
  [ ⟨0x40, some .lora, none, fun s =>
      (match s.lora.loraMode with | .standby => 0 | .rx => 1 | .tx => 2)
        ||| bitAt 2 s.lora.paEnable ||| bitAt 3 s.lora.csAsserted ||| bitAt 4 s.lora.loraRst⟩,
    ⟨0x41, some .lora, none, fun s => (s.lora.lastAttempts ++ s.lora.lastStatus).setWidth 32⟩,
    ⟨0x42, some .lora, none, fun s => BitVec.ofNat 32 s.lora.lpbLen⟩,
    ⟨0x43, some .lora, some 0xFFFFFFFF, fun s => s.lora.cfgFreq⟩,
    ⟨0x44, some .lora, some 0xF, fun s => s.lora.cfgSf.setWidth 32⟩,
    ⟨0x45, some .lora, some 0x7, fun s => s.lora.cfgCr.setWidth 32⟩,
    ⟨0x46, some .lora, some 0xFF, fun s => s.lora.cfgPwr.setWidth 32⟩,
    ⟨0x47, some .lora, none, fun s => s.lora.rxTimeout.setWidth 32⟩,
    ⟨0x48, some .lora, some 0xFFFF, fun s => s.lora.pktPreamble.setWidth 32⟩,
    ⟨0x49, some .lora, some 0x7, fun s => s.lora.pktFlags.setWidth 32⟩,
    ⟨0x4A, some .lora, some 0xFFFF, fun s => s.lora.busyTimeout.setWidth 32⟩,
    ⟨0x4B, some .lora, none, fun s => BitVec.ofNat 32 s.build.maxAttempts⟩,
    ⟨0x4C, some .lora, some 0xFF, fun s => s.lora.cfgBw.setWidth 32⟩ ]

/-- The register map of R40. -/
def registerMap : List RegRow := registerMapBoth ++ registerMapAfsk ++ registerMapLora

/-- The row's build column admits the build. -/
def RegRow.admits (r : RegRow) (b : Build) : Bool := r.back.all (· == b.backend)

/-! ### Inputs and stores -/

/-- The answer of the next read of `in.busy` and the inputs left (R12). -/
def Env.nextBusy (e : Env) : Bool × Env :=
  match e.busy with
  | [] => (Config.freeBusy e.freeReads, { e with freeReads := e.freeReads + 1 })
  | v :: rest => (v, { e with busy := rest })

/-- The byte the next transfer returns and the inputs left (R12). -/
def Env.nextByte (e : Env) : Byte × Env :=
  match e.busIn with
  | [] => (Config.freeBusByte e.freeReads, { e with freeReads := e.freeReads + 1 })
  | v :: rest => (v, { e with busIn := rest })

/-- The detector's next answer and the inputs left (R12). -/
def Env.nextDet (e : Env) : Bool × Env :=
  match e.det with
  | [] => (Config.freeDet e.freeReads, { e with freeReads := e.freeReads + 1 })
  | v :: rest => (v, { e with det := rest })

/-- The next ADC triple and the inputs left (R12). -/
def Env.nextAdc (e : Env) : AdcSample × Env :=
  match e.adc with
  | [] => (Config.freeAdc e.freeReads, { e with freeReads := e.freeReads + 1 })
  | v :: rest => (v, { e with adc := rest })

/-- `m'` is `m` with the bytes `vs` stored from address `a` on: those addresses hold them, every other byte reads as before. -/
def Stored (sp : Space) (m : Memory Byte) (a : Nat) (vs : List Byte) (m' : Memory Byte) : Prop :=
  Memory.bytes sp m' a vs.length = vs ∧
    ∀ x, x < a ∨ a + vs.length ≤ x → Memory.byteAt sp m' x = Memory.byteAt sp m x

/-! ### Bus traces as a grammar (R241 to R247) -/

/-- The polls of `WaitBusy(T)` (R243): busy polls and the idle one that ends them, or `T` busy polls. -/
def BusyWait (T : Nat) (idle : Bool) (tr : List BusEvent) : Prop :=
  if idle then ∃ j, j < T ∧ tr = List.replicate j (.poll true) ++ [.poll false]
  else tr = List.replicate T (.poll true)

/-- The warnings of a wait (R243). -/
def missed (idle : Bool) : Nat := if idle then 0 else 1

/-- The payload transfers of one attempt and its outcome (R245): every returned byte is inspected and the first that is not
`LS_OK` ends them. -/
inductive PayloadTrace (c : ChipTable) : List Byte → List BusEvent → LoraOutcome → Prop where
  | done : PayloadTrace c [] [] .ok
  | good {o i : Byte} {pay : List Byte} {tr : List BusEvent} {st : LoraOutcome} :
      inspect c i = .ok → PayloadTrace c pay tr st → PayloadTrace c (o :: pay) (.xfer o i :: tr) st
  | bad {o i : Byte} {pay : List Byte} : inspect c i ≠ .ok → PayloadTrace c (o :: pay) [.xfer o i] (inspect c i)

/-- One bracketed write attempt (R245): trace, outcome, warnings of its two waits. -/
inductive AttemptTrace (c : ChipTable) (T : Nat) (opc : Byte) (pay : List Byte) : List BusEvent → LoraOutcome → Nat → Prop where
  | mk {idle₁ idle₂ : Bool} {w₁ tr w₂ : List BusEvent} {r : Byte} {st : LoraOutcome} :
      BusyWait T idle₁ w₁ → PayloadTrace c pay tr st → BusyWait T idle₂ w₂ →
      AttemptTrace c T opc pay (w₁ ++ [.select, .xfer opc r] ++ tr ++ [.deselect] ++ w₂) st (missed idle₁ + missed idle₂)

/-- A write command with at most `left` attempts (R247): trace, outcome of the last attempt, attempts made, warnings (one for each
exhausted wait and one for each failed attempt). -/
inductive CommandTrace (c : ChipTable) (T : Nat) (opc : Byte) (pay : List Byte) :
    Nat → List BusEvent → LoraOutcome → Nat → Nat → Prop where
  | success {left w : Nat} {tr : List BusEvent} :
      AttemptTrace c T opc pay tr .ok w → CommandTrace c T opc pay (left + 1) tr .ok 1 w
  | abandoned {w : Nat} {tr : List BusEvent} {st : LoraOutcome} :
      AttemptTrace c T opc pay tr st w → st ≠ .ok → CommandTrace c T opc pay 1 tr st 1 (w + 1)
  | again {left k w w' : Nat} {tr tr' : List BusEvent} {st st' : LoraOutcome} :
      AttemptTrace c T opc pay tr st w → st ≠ .ok → CommandTrace c T opc pay (left + 1) tr' st' k w' →
      CommandTrace c T opc pay (left + 2) (tr ++ tr') st' (k + 1) (w + 1 + w')

/-- Transfers that drive these bytes, whatever comes back. -/
def Drives (outs : List Byte) (tr : List BusEvent) : Prop :=
  ∃ ins : List Byte, ins.length = outs.length ∧ tr = List.zipWith BusEvent.xfer outs ins

/-- What a LoRa operation does on the bus, in order. -/
inductive BusItem where
  /-- a write command with retry (R247) -/
  | write (opc : Byte) (pay : List Byte)
  /-- a read transaction (R246) and the data bytes it returned -/
  | read (opc : Byte) (pre data : List Byte)
  /-- a busy wait of at most `bound` polls and whether it ended idle (R243) -/
  | wait (bound : Nat) (idle : Bool)
  /-- a named pin write (R241) -/
  | pin (p : Pin) (v : Bool)

/-- What bus work leaves in the counters: warnings, failures, and outcome and attempts of the last write command, if any. -/
structure Tally where
  warns : Nat
  fails : Nat
  last  : Option (LoraOutcome × Nat)

/-- No bus work. -/
def Tally.zero : Tally := { warns := 0, fails := 0, last := none }

/-- Warnings alone: a wait or a read transaction. -/
def Tally.ofWarnings (w : Nat) : Tally := { warns := w, fails := 0, last := none }

/-- A write command (R247): its warnings, a failure when it was abandoned, its outcome and attempts. -/
def Tally.ofCommand (st : LoraOutcome) (k w : Nat) : Tally :=
  { warns := w, fails := if st = .ok then 0 else 1, last := some (st, k) }

/-- One after the other. -/
def Tally.seq (y z : Tally) : Tally :=
  { warns := y.warns + z.warns, fails := y.fails + z.fails, last := z.last.or y.last }

/-- The bus trace of a sequence of items and its tally, with `T` the bound of the bracketing waits. -/
inductive BusTrace (b : Build) (T : Nat) : List BusItem → List BusEvent → Tally → Prop where
  | nil : BusTrace b T [] [] Tally.zero
  | write {opc : Byte} {pay : List Byte} {items : List BusItem} {tr tr' : List BusEvent} {st : LoraOutcome} {k w : Nat} {y : Tally} :
      CommandTrace b.chip T opc pay b.maxAttempts tr st k w → BusTrace b T items tr' y →
      BusTrace b T (.write opc pay :: items) (tr ++ tr') ((Tally.ofCommand st k w).seq y)
  | read {opc : Byte} {pre data : List Byte} {items : List BusItem} {w₁ tr w₂ tr' : List BusEvent} {idle₁ idle₂ : Bool} {y : Tally} :
      BusyWait T idle₁ w₁ → Drives (opc :: pre ++ List.replicate b.chip.readSkip b.chip.nopByte) tr → BusyWait T idle₂ w₂ →
      BusTrace b T items tr' y →
      BusTrace b T (.read opc pre data :: items)
        (w₁ ++ [.select] ++ tr ++ data.map (BusEvent.xfer b.chip.nopByte) ++ [.deselect] ++ w₂ ++ tr')
        ((Tally.ofWarnings (missed idle₁ + missed idle₂)).seq y)
  | wait {bound : Nat} {idle : Bool} {items : List BusItem} {tr tr' : List BusEvent} {y : Tally} :
      BusyWait bound idle tr → BusTrace b T items tr' y →
      BusTrace b T (.wait bound idle :: items) (tr ++ tr') ((Tally.ofWarnings (missed idle)).seq y)
  | pin {p : Pin} {v : Bool} {items : List BusItem} {tr : List BusEvent} {y : Tally} :
      BusTrace b T items tr y → BusTrace b T (.pin p v :: items) (.pin p v :: tr) y

/-- `min(x + n, 2^w - 1)`. -/
def satAdd {w : Nat} (x : BitVec w) (n : Nat) : BitVec w := BitVec.ofNat w (min (x.toNat + n) (2 ^ w - 1))

/-- The log counters and their flags after the items (R37, R243, R247): `EV_WARN` is bit 6, `EV_FAIL` bit 7. -/
def Tally.events (y : Tally) (e : Events) : Events :=
  { e with
    logWarn := satAdd e.logWarn y.warns
    logFail := satAdd e.logFail y.fails
    evt := e.evt ||| (if y.warns = 0 then 0 else 0x0040) ||| (if y.fails = 0 then 0 else 0x0080) }

/-- `lastStatus` and `lastAttempts` after the items (R247). -/
def Tally.lora (y : Tally) (l : Lora) : Lora :=
  match y.last with
  | none => l
  | some (st, k) => { l with lastStatus := st.code, lastAttempts := BitVec.ofNat 8 k }

/-- The polls and returned bytes of a trace are the inputs' answers, in order (R12, R241), and `e'` is what is left of them. -/
def Replay : List BusEvent → Env → Env → Prop
  | [], e, e' => e' = e
  | .poll v :: tr, e, e' => v = e.nextBusy.1 ∧ Replay tr e.nextBusy.2 e'
  | .xfer _ i :: tr, e, e' => i = e.nextByte.1 ∧ Replay tr e.nextByte.2 e'
  | .select :: tr, e, e' => Replay tr e e'
  | .deselect :: tr, e, e' => Replay tr e e'
  | .pin _ _ :: tr, e, e' => Replay tr e e'

/-- The state after bus work on `s` that left the trace `tr`, the tally `y` and the inputs `e`: the log counters, the flags
`EV_WARN` and `EV_FAIL`, `lastStatus` and `lastAttempts` hold what was tallied, and nothing else has changed. -/
def State.afterBus (s : State) (tr : List BusEvent) (y : Tally) (e : Env) : State :=
  { s with events := y.events s.events, lora := y.lora s.lora, env := e, out.trace := s.out.trace ++ tr }

/-- From `s` the items are done on the bus, in order, and leave `t`. (The level a `pin` item drives is stated apart.) -/
def DoesBus (s : State) (items : List BusItem) (t : State) : Prop :=
  ∃ (tr : List BusEvent) (y : Tally) (e : Env),
    BusTrace s.build s.lora.busyTimeout.toNat items tr y ∧ Replay tr s.env e ∧ t = s.afterBus tr y e

/-- Every transfer lies between a `CS+` and the next `CS-`, no `CS+` comes while selected, no poll falls inside a bracket, and the
trace ends deselected (R241, R245, R246); `sel` says whether the chip is selected. -/
def Bracketed : Bool → List BusEvent → Bool
  | sel, [] => !sel
  | sel, .poll _ :: tr => !sel && Bracketed sel tr
  | sel, .select :: tr => !sel && Bracketed true tr
  | sel, .xfer _ _ :: tr => sel && Bracketed sel tr
  | sel, .deselect :: tr => sel && Bracketed false tr
  | sel, .pin _ _ :: tr => !sel && Bracketed sel tr

/-! ### Codec terms -/

/-- The decimal value of a digit string (R204). -/
def decimalValue (ds : List Byte) : Nat := ds.foldl (fun acc d => acc * 10 + (d.toNat - 0x30)) 0

/-- The seven wire bytes of an address (R109, R110): six shifted characters, then flag, fixed bits, SSID and last flag. -/
def wireAddress (A : Ax25Address) (last : Bool) : List Byte :=
  [A.call.c0 <<< 1, A.call.c1 <<< 1, A.call.c2 <<< 1, A.call.c3 <<< 1, A.call.c4 <<< 1, A.call.c5 <<< 1,
    BitVec.ofBool (A.flags.getLsbD 7) ++ (0b11 : BitVec 2) ++ A.ssid ++ BitVec.ofBool last]

/-- The header of the frame registers (R108, R215): destination, source and the first `min(axNdigi, 7)` digipeaters, the final
address alone flagged last; the control byte; the PID byte where R111 asks for one. -/
def wireHeader (c : Codec) : List Byte :=
  ((c.addr.toList.take (2 + min c.axNdigi.toNat 7)).mapIdx
      fun k A => wireAddress A (k == 1 + min c.axNdigi.toNat 7)).flatten
    ++ [c.axCtrl] ++ (if hasPid c.axCtrl then [c.axPid] else [])

/-- The `k`-th byte AXDEC takes: the one `k` places after the read index, 0x00 past the end (R214). -/
def takenByte (s : State) (k : Nat) : Byte :=
  if s.codec.axbRd + k < s.codec.axbLen then Memory.byteAt .axb s.codec.axb (s.codec.axbRd + k) else 0

/-- Address `i` of the header AXDEC takes (R218): bytes `7i .. 7i+6`. -/
def takenAddress (s : State) (i : Nat) : Ax25Address :=
  { call :=
      { c0 := takenByte s (7 * i) >>> 1, c1 := takenByte s (7 * i + 1) >>> 1, c2 := takenByte s (7 * i + 2) >>> 1
        c3 := takenByte s (7 * i + 3) >>> 1, c4 := takenByte s (7 * i + 4) >>> 1, c5 := takenByte s (7 * i + 5) >>> 1 }
    ssid := (takenByte s (7 * i + 6)).extractLsb' 1 4
    flags := takenByte s (7 * i + 6) &&& 0x81 }

/-- The decimal digits of a number as characters, no leading zero (R206 `Dec`). -/
def decimalDigits (n : Nat) : List Byte := (Nat.digits 10 n).reverse.map fun d => BitVec.ofNat 8 (0x30 + d)

/-- The string of an address (R206): the callsign without its trailing spaces, then the SSID unless it is 0. -/
def addressString (A : Ax25Address) : List Byte :=
  A.call.toList.rdropWhile (· == 0x20) ++ (if A.ssid = 0 then [] else 0x2D :: decimalDigits A.ssid.toNat)

/-- The bits a byte queue is sent as (R184, R185): byte after byte, bit 0 first. -/
def bitStream (bs : List Byte) : List Bool := bs.flatMap fun b => (List.range 8).map fun j => b.getLsbD j

/-- The tone after a run of bits (R185): a 0 toggles it, a 1 holds it. -/
def toneAfter (t : Tone) (bits : List Bool) : Tone :=
  bits.foldl (fun t b => if b then t else if t = .mark then .space else .mark) t

/-- The addresses in use: destination, source and the digipeaters `ADDR[2 .. 1+n]` (R215). -/
def addressesInUse (s : State) : List Ax25Address := s.codec.addr.toList.take (2 + s.codec.axNdigi.toNat)

/-- A consistent frame-register state (R220): at most 7 digipeaters, 7-bit characters, each `FLAG_LAST` as R215 computes it for the
position, no PID without a control byte that has one. -/
structure Consistent (s : State) : Prop where
  digis : s.codec.axNdigi.toNat ≤ 7
  chars : ∀ A ∈ addressesInUse s, A.call.Is7Bit
  flags : ∀ A ∈ addressesInUse s, A.flags &&& 0x7E = 0
  last  : ∀ k A, (addressesInUse s)[k]? = some A →
    (A.flags.getLsbD 0 = true ↔ k = 1 + s.codec.axNdigi.toNat)
  pid   : hasPid s.codec.axCtrl = false → s.codec.axPid = 0

/-- The seven bytes of an address in a canonical header (R109, R110, R220), `last` saying whether it carries the last flag. -/
def canonicalAddress (last : Bool) (bs : List Byte) : Prop :=
  bs.length = 7 ∧ (∀ b ∈ bs.take 6, b.getLsbD 0 = false) ∧
    ∀ b, bs[6]? = some b → b &&& 0x60 = 0x60 ∧ b.getLsbD 0 = last

/-- A canonical header with `n` digipeaters (R108, R220): addresses with the last flag on exactly the final one, control byte, PID
byte where the control byte has one. -/
structure CanonicalHeader (n : Nat) (h : List Byte) : Prop where
  digis     : n ≤ 7
  length    : h.length = 14 + 7 * n + 1 + (if hasPid (h.getD (14 + 7 * n) 0) then 1 else 0)
  addresses : ∀ k, k < n + 2 → canonicalAddress (k == n + 1) ((h.drop (7 * k)).take 7)

end Sys2Proof.Machine
end

