-- ==== Sys2Proof/Certificates/Slice0/Obligations.lean ====
section
/-! DEFINITION. The statements for the provers. Each cites the numbered rule of spec/ it comes from; where it rests on a choice of
the model, its docstring names the log entry. `s.withRsp st v` is the response word of R103 and changes nothing else. -/

section

open Sys2Proof Sys2Proof.Machine

/-! ### Encoding (30_encoding.md) -/

/-- R101, R102, R104: no operand bit of a well-formed instruction is lost between its command word and the decoder. -/
def Obligations.DecodeOfEncode : Prop :=
  ∀ i : Instr, WellFormed i = true → decode (encode i) = .ok i

/-- R104, R105, R106: a word the decoder accepts is the word of the one instruction it answers. -/
def Obligations.EncodeOfDecode : Prop :=
  ∀ (w : CmdWord) (i : Instr), decode w = .ok i → WellFormed i = true ∧ encode i = w

/-- R121 and 95_test_vectors.md V-E1: words written out in the spec decode to the lines they stand for. -/
def Obligations.SampleWordsDecode : Prop :=
  decode 0x1100000000FD = .ok (.rbput 0xFD) ∧ decode 0x021C00000800 = .ok (.wrreg 0x1C 2048) ∧
    decode 0x650000074034 = .ok (.lwreg 0x0740 0x34) ∧ decode 0x638000000001 = .ok (.lwcmd 0x80 1) ∧
    decode 0x4900000003F0 = .ok (.axctl 0x03 0xF0) ∧ decode 0x450200000080 = .ok (.axflg 2 0x80) ∧
    decode 0x710100000000 = .ok (.lwait .polled 0) ∧ decode 0x6D0019DAE198 = .ok (.lsetfreq 433775000) ∧
    decode 0x200000000001 = .ok (.capstart true) ∧ decode 0x30000000007E = .ok (.txqpush 0x7E)

/-- R105, R106, R9: the order of the tests. A word that is no operation's answers `ST_ILLEGAL`; an operation whose engine is not
built `ST_ABSENT`; a ring or capture operation with the ring disabled `ST_DISABLED`; none of these changes anything. Any other
word runs its operation, which gives exactly one response, none of those three (but for RDREG and WRREG of an absent register). -/
def Obligations.CommandDecodeOrder : Prop :=
  ∀ (w : CmdWord) (s : State),
    ((∀ i, WellFormed i = true → encode i ≠ w) → runWord w s = .next (s.withRsp .illegal 0)) ∧
      ∀ i, WellFormed i = true → encode i = w →
        (builtIn i s.build = false → runWord w s = .next (s.withRsp .absent 0)) ∧
        (builtIn i s.build = true → isRingOp i = true → s.ring.rbEnabled = false →
          runWord w s = .next (s.withRsp .disabled 0)) ∧
        (builtIn i s.build = true → (isRingOp i = true → s.ring.rbEnabled = true) →
          runWord w s = exec i s ∧
            ∃ t r, exec i s = .next t ∧ t.out.rsp = some r ∧ r.st ≠ .illegal ∧ r.st ≠ .disabled ∧
              (r.st = .absent → (∃ idx, i = .rdreg idx) ∨ ∃ idx v, i = .wrreg idx v))

/-- R105, R80, R341, R360: no step of the block stops it; whatever is offered next there is a next state, and every command word
accepted (offered while `rst_n` is high) gets a response. -/
def Obligations.EveryStepAnswers : Prop :=
  ∀ s : State, ∃ t, step s = .next t ∧
    ∀ w rest, s.env.agenda = .command w :: rest → s.env.rstN = true → ∃ r, t.out.rsp = some r

/-- R100, R105: when the next thing offered is a command word that decodes to `i`, and `rst_n` is high, the step is `exec i` at the state with that
offer taken and the pulsed outputs of the step before cleared. The agenda is the model's form of the schedule (log entry 4). -/
def Obligations.StepRunsCommand : Prop :=
  ∀ (s : State) (w : CmdWord) (rest : List Stimulus) (i : Instr),
    s.env.agenda = .command w :: rest → s.env.rstN = true → decode w = .ok i →
      step s = exec i { s with env.agenda := rest, out := StepOut.none }

/-! ### System operations and registers (47_availability_system.md, 10_state.md) -/

/-- R300, R303: NOP does nothing; EVCLR clears the masked flags and answers them as they were. -/
def Obligations.NopAndEvclrResult : Prop :=
  ∀ s : State, exec .nop s = .next (s.withRsp .ok 0) ∧
    ∀ m : Half, exec (.evclr m) s =
      .next (({ s with events.evt := s.events.evt &&& ~~~m } : State).withRsp .ok (s.events.evt.setWidth 32))

/-- R301, R40: RDREG over the whole register map; a read changes nothing. -/
def Obligations.RdregResult : Prop :=
  ∀ s : State,
    (∀ r ∈ registerMap,
      exec (.rdreg r.idx) s =
        .next (if r.admits s.build then s.withRsp .ok (r.value s) else s.withRsp .absent 0)) ∧
    ∀ idx : Byte, idx ∉ registerMap.map RegRow.idx → exec (.rdreg idx) s = .next (s.withRsp .range 0)

/-- R302: WRREG writes exactly the named register; every refused write changes nothing. -/
def Obligations.WrregResult : Prop :=
  ∀ (s : State) (v : Word),
    (∀ idx : Byte, idx ∉ registerMap.map RegRow.idx → exec (.wrreg idx v) s = .next (s.withRsp .range 0)) ∧
    (∀ r ∈ registerMap, r.admits s.build = false → exec (.wrreg r.idx v) s = .next (s.withRsp .absent 0)) ∧
    (∀ r ∈ registerMap, r.admits s.build = true → (∀ m, r.write = some m → v &&& ~~~m ≠ 0) →
      exec (.wrreg r.idx v) s = .next (s.withRsp .range 0)) ∧
    (v &&& ~~~0xFFFF = 0 →
      exec (.wrreg 0x03 v) s = .next (({ s with events.evmask := v.setWidth 16 } : State).withRsp .ok 0)) ∧
    (v &&& ~~~0xFF = 0 →
      exec (.wrreg 0x07 v) s = .next (({ s with events.sqlLevel := v.setWidth 8 } : State).withRsp .ok 0)) ∧
    (s.build.backend = .afsk → v &&& ~~~0xFFFF = 0 →
      exec (.wrreg 0x1C v) s = .next (({ s with cap.dcOffset := v.setWidth 16 } : State).withRsp .ok 0)) ∧
    (s.build.backend = .afsk → v &&& ~~~0xF = 0 →
      exec (.wrreg 0x1D v) s = .next (({ s with cap.scaleShift := v.setWidth 4 } : State).withRsp .ok 0)) ∧
    (s.build.backend = .lora →
      exec (.wrreg 0x43 v) s = .next (({ s with lora.cfgFreq := v } : State).withRsp .ok 0) ∧
      (v &&& ~~~0xF = 0 →
        exec (.wrreg 0x44 v) s = .next (({ s with lora.cfgSf := v.setWidth 4 } : State).withRsp .ok 0)) ∧
      (v &&& ~~~0x7 = 0 →
        exec (.wrreg 0x45 v) s = .next (({ s with lora.cfgCr := v.setWidth 3 } : State).withRsp .ok 0)) ∧
      (v &&& ~~~0xFF = 0 →
        exec (.wrreg 0x46 v) s = .next (({ s with lora.cfgPwr := v.setWidth 8 } : State).withRsp .ok 0)) ∧
      (v &&& ~~~0xFFFF = 0 →
        exec (.wrreg 0x48 v) s = .next (({ s with lora.pktPreamble := v.setWidth 16 } : State).withRsp .ok 0)) ∧
      (v &&& ~~~0x7 = 0 →
        exec (.wrreg 0x49 v) s = .next (({ s with lora.pktFlags := v.setWidth 3 } : State).withRsp .ok 0)) ∧
      (v &&& ~~~0xFFFF = 0 →
        exec (.wrreg 0x4A v) s = .next (({ s with lora.busyTimeout := v.setWidth 16 } : State).withRsp .ok 0)) ∧
      (v &&& ~~~0xFF = 0 →
        exec (.wrreg 0x4C v) s = .next (({ s with lora.cfgBw := v.setWidth 8 } : State).withRsp .ok 0)))

/-- R40, R302, R334: a register reads back the value a WRREG wrote, and a write of `EVMASK` drives `irq` at once. -/
def Obligations.WrregReadsBack : Prop :=
  ∀ (s t : State) (idx : Byte) (v : Word), exec (.wrreg idx v) s = .next t → t.out.rsp = some ⟨.ok, 0⟩ →
    (∃ u, exec (.rdreg idx) t = .next u ∧ u.out.rsp = some ⟨.ok, v⟩) ∧
      (idx = 0x03 → (t.levels.irq = true ↔ s.events.evt &&& v.setWidth 16 ≠ 0))

/-- R304, R66, R361: SRESET puts every register at its reset value, samples `rb_alloc_ok`, keeps the bytes of the memories with
every length 0, makes no bus transaction and answers `ST_OK`. -/
def Obligations.SresetResult : Prop :=
  ∀ s : State,
    exec .sreset s = .next
      (({ build := s.build
          ring :=
            { readCursor := 0, writeCursor := 0, committedFrameStart := 0, committedFrameLength := 0
              provisionalFrameStart := 0, provisionalFrameLength := 0, buf := s.ring.buf
              rbEnabled := if s.build.backend = .afsk then s.env.rbAllocOk else false }
          cap :=
            { capState := .idle, capForce := false, capCount := 0, capLen := 0, pendingBoundary := false
              frag := s.cap.frag, fragFill := 0, fragIdx := 0, dcOffset := 2048, scaleShift := 4 }
          clk := { clkRun := false, clkMode := .rx }
          tx :=
            { txState := .idle, txByte := 0, txBitsLeft := 0, txCurBit := false, txCurValid := false
              toneSel := .mark, toneOn := false, ptt := false, txq := [] }
          codec :=
            { addr := Vector.replicate 9 ⟨⟨0x20, 0x20, 0x20, 0x20, 0x20, 0x20⟩, 0, 0⟩, axNdigi := 0, axCtrl := 0, axPid := 0
              axb := s.codec.axb, axbLen := 0, axbRd := 0, strb := s.codec.strb, strLen := 0, strRd := 0 }
          lora :=
            { loraMode := .standby, csAsserted := false, paEnable := false, loraRst := false
              busyTimeout := s.build.busyTimeout, pktPreamble := 8, pktFlags := 0b010, lastStatus := 0, lastAttempts := 0
              rxTimeout := 0, lpb := s.lora.lpb, lpbLen := 0, cfgFreq := 0, cfgSf := 0, cfgCr := 0, cfgBw := 0, cfgPwr := 0 }
          avail :=
            { onOff := false, useCount := 0, available := false, channelReady := false, txOff := true, pdPending := false }
          events :=
            { evt := if s.build.backend = .afsk ∧ s.env.rbAllocOk = false then 0x0100 else 0
              evmask := 0, logWarn := 0, logFail := 0, sqlLevel := 0 }
          env := s.env
          out := s.out } : State).withRsp .ok 0)

/-- R360, R361, R362: the fall and the rise of `rst_n`, what is offered while it is low, and a fall inside an operation. The spec's: the
levels of the pins while it is low, that no command is accepted and no event enabled then, the registers and `rb_alloc_ok` at the rise,
and that a fall inside an operation gives no response, releases chip-select, ends the trace where it was cut and keeps the memories. The
model's choice: that the registers hold their reset values already while the pin is low, and that a word or event offered then is taken
off the agenda and dropped (log entry 11, DEDUCED); that the cut falls after `k` bus events, before the last of which no memory has been
written and after which they are as the operation left them (log entry 9, DEDUCED). -/
def Obligations.ResetPinResult : Prop :=
  ∀ (s : State) (rest : List Stimulus),
    let u : State := { s with env.agenda := rest, out := StepOut.none }
    (s.env.agenda = .resetLow :: rest →
      ∃ t, exec .sreset u = .next t ∧ step s = .next { t with env.rstN := false, out := StepOut.none } ∧
        State.levels { t with env.rstN := false } =
          { cmdReady := false, irq := false, toneOn := false, toneSel := .mark, ptt := false, radioPwr := false
            loraCsN := true, loraRstN := true, paEn := false }) ∧
    (s.env.agenda = .resetHigh :: rest → s.env.rstN = false →
      ∃ t, exec .sreset u = .next t ∧ step s = .next { t with env.rstN := true, out := StepOut.none }) ∧
    (∀ e, s.env.agenda = e :: rest → s.env.rstN = false → ((∃ w, e = .command w) ∨ e = .tick ∨ e = .capStep ∨ e = .powerDown) →
      step s = .next u) ∧
    ∀ (w : CmdWord) (k : Nat), s.env.agenda = .resetDuring w k :: rest → s.env.rstN = true →
      ∃ u' t v, runWord w u = .next u' ∧ step s = .next t ∧
        exec .sreset u' = .next v ∧ t.out.rsp = none ∧ t.out.detSample = none ∧ t.out.trace = u'.out.trace.take k ∧
        t.lora.csAsserted = false ∧
        let kept := if k < u'.out.trace.length then u else u'
        t = { v with
              env := { u'.env with rstN := false }
              out := t.out
              ring.buf := kept.ring.buf
              cap.frag := kept.cap.frag
              codec.axb := kept.codec.axb
              codec.strb := kept.codec.strb
              lora.lpb := kept.lora.lpb }

/-! ### Clock, ring and capture (41_ring_buffer.md, 42_capture_and_clock.md) -/

/-- R170, R171, R189 with R9: SETMODE, CLKSTOP and PTT, never refused in the AFSK build and absent from the other. -/
def Obligations.ClockAndPttResult : Prop :=
  ∀ (s : State) (m : ClkMode) (on : Bool),
    (s.build.backend = .afsk →
      exec (.setmode m) s = .next (({ s with clk.clkRun := true, clk.clkMode := m } : State).withRsp .ok 0) ∧
      exec .clkstop s = .next (({ s with clk.clkRun := false } : State).withRsp .ok 0) ∧
      exec (.ptt on) s = .next (({ s with tx.ptt := on, avail.txOff := !on } : State).withRsp .ok 0)) ∧
    (s.build.backend ≠ .afsk → ∀ i ∈ [Instr.setmode m, .clkstop, .ptt on], exec i s = .next (s.withRsp .absent 0))

/-- R25: the derived ring functions, with the mathematical modulus of R10. -/
def Obligations.RingFunctionFormulas : Prop :=
  ∀ s : State, 0 < s.build.ringCap →
    (s.consumed : Int) = ((s.ring.readCursor : Int) - s.ring.committedFrameStart) % s.build.ringCap ∧
    (s.unread = if s.ring.committedFrameLength = 0 then 0
      else if s.consumed < s.ring.committedFrameLength then s.ring.committedFrameLength - s.consumed else 0) ∧
    s.committedEnd = (s.ring.committedFrameStart + s.ring.committedFrameLength) % s.build.ringCap ∧
    ∀ c : Nat, s.inNewer c = true ↔
      ((c : Int) - s.committedEnd) % s.build.ringCap < ((s.ring.writeCursor : Int) - s.committedEnd) % s.build.ringCap

/-- R130, R131, R133, R134, R135, R136: RBNEXT, RBGET, RBEOF, RBRESET and RBLAST, with every refusal each can give. -/
def Obligations.RingReadersAndMarkersResult : Prop :=
  ∀ s : State,
    (s.build.backend ≠ .afsk →
      ∀ i ∈ [Instr.rbnext, .rbget, .rbeof, .rbreset, .rblast], exec i s = .next (s.withRsp .absent 0)) ∧
    (s.build.backend = .afsk → s.ring.rbEnabled = false →
      ∀ i ∈ [Instr.rbnext, .rbget, .rbeof, .rbreset, .rblast], exec i s = .next (s.withRsp .disabled 0)) ∧
    (s.build.backend = .afsk → s.ring.rbEnabled = true →
      (s.cap.capState = .wait ∨ s.cap.capState = .run →
        exec .rbnext s = .next (s.withRsp .busy 0) ∧ exec .rblast s = .next (s.withRsp .busy 0)) ∧
      (s.cap.capState = .idle ∨ s.cap.capState = .done →
        exec .rbnext s =
          .next (({ s with ring.provisionalFrameStart := s.ring.writeCursor, ring.provisionalFrameLength := 0 } : State).withRsp
            .ok 0) ∧
        exec .rblast s =
          .next (({ s with
                    ring.committedFrameStart := s.ring.provisionalFrameStart
                    ring.committedFrameLength := s.ring.provisionalFrameLength
                    ring.readCursor := s.ring.provisionalFrameStart } : State).withRsp
            .ok (BitVec.ofNat 32 s.ring.provisionalFrameLength))) ∧
      exec .rbget s =
        .next (({ s with ring.readCursor := (s.ring.readCursor + 1) % s.build.ringCap } : State).withRsp
          .ok ((Memory.byteAt .buf s.ring.buf s.ring.readCursor).signExtend 32)) ∧
      exec .rbreset s = .next (({ s with ring.readCursor := s.ring.committedFrameStart } : State).withRsp .ok 0) ∧
      exec .rbeof s =
        .next (s.withRsp .ok
          (if s.ring.committedFrameLength = 0 ∨ (s.ring.readCursor = s.ring.writeCursor ∧ s.unread = 0) ∨
              s.inNewer s.ring.readCursor = true
            then 1 else 0)))

/-- R132, R130: RBPUT stores at the write cursor and advances, or drops the sample on a collision with the oldest unread sample
or at `N - 1` samples; a drop changes nothing and still answers `ST_OK`. Memory changes in the one cell `writeCursor`. -/
def Obligations.RbputResult : Prop :=
  ∀ (s : State) (v : Byte),
    (s.build.backend ≠ .afsk → exec (.rbput v) s = .next (s.withRsp .absent 0)) ∧
    (s.build.backend = .afsk → s.ring.rbEnabled = false → exec (.rbput v) s = .next (s.withRsp .disabled 0)) ∧
    (s.build.backend = .afsk → s.ring.rbEnabled = true →
      (s.cap.capState = .wait ∨ s.cap.capState = .run → exec (.rbput v) s = .next (s.withRsp .busy 0)) ∧
      (s.cap.capState = .idle ∨ s.cap.capState = .done →
        ((0 < s.unread ∧ s.ring.writeCursor = s.ring.readCursor) ∨ s.ring.provisionalFrameLength = s.build.ringCap - 1 →
          exec (.rbput v) s = .next (s.withRsp .ok 0)) ∧
        (¬ (0 < s.unread ∧ s.ring.writeCursor = s.ring.readCursor) → s.ring.provisionalFrameLength ≠ s.build.ringCap - 1 →
          ∃ m, Stored .buf s.ring.buf s.ring.writeCursor [v] m ∧
            exec (.rbput v) s =
              .next (({ s with
                        ring.buf := m
                        ring.writeCursor := (s.ring.writeCursor + 1) % s.build.ringCap
                        ring.provisionalFrameLength := s.ring.provisionalFrameLength + 1 } : State).withRsp .ok 0))))

/-- R150, R155, R156: CAPSTART arms the worker and begins a candidate frame, CAPSTOP stops it and leaves the ring alone. -/
def Obligations.CaptureControlResult : Prop :=
  ∀ (s : State) (force : Bool),
    (s.build.backend ≠ .afsk → ∀ i ∈ [Instr.capstart force, .capstop], exec i s = .next (s.withRsp .absent 0)) ∧
    (s.build.backend = .afsk → s.ring.rbEnabled = false →
      ∀ i ∈ [Instr.capstart force, .capstop], exec i s = .next (s.withRsp .disabled 0)) ∧
    (s.build.backend = .afsk → s.ring.rbEnabled = true →
      (s.cap.capState = .wait ∨ s.cap.capState = .run → exec (.capstart force) s = .next (s.withRsp .busy 0)) ∧
      (s.cap.capState = .idle ∨ s.cap.capState = .done →
        exec (.capstart force) s =
          .next (({ s with
                    ring.provisionalFrameStart := s.ring.writeCursor
                    ring.provisionalFrameLength := 0
                    cap.capCount := 0
                    cap.pendingBoundary := false
                    cap.capForce := force
                    cap.fragFill := 0
                    cap.fragIdx := 0
                    cap.capState := if s.env.squelchOpen = true ∨ force = true then .run else .wait } : State).withRsp .ok 0)) ∧
      exec .capstop s =
        .next (({ s with
                  cap.capState := .idle
                  cap.pendingBoundary := false
                  cap.capCount := 0
                  cap.fragFill := 0
                  cap.fragIdx := 0 } : State).withRsp .ok 0))

/-- R153, R10: conditioning on unbounded integers, rounding toward minus infinity and saturating to a signed 8-bit sample; with the
reset values the result runs from -128 to 127 and the saturation never acts. -/
def Obligations.ConditionFormula : Prop :=
  (∀ (dc : Half) (shift : BitVec 4) (raw : BitVec 12),
    (condition dc shift raw).toInt =
      max (-128) (min 127 (((raw.toNat : Int) - dc.toNat).fdiv (2 ^ shift.toNat)))) ∧
    (∀ raw : BitVec 12, (condition 2048 4 raw).toInt = ((raw.toNat : Int) - 2048).fdiv 16) ∧
    (condition 2048 4 0).toInt = -128 ∧ (condition 2048 4 4095).toInt = 127 ∧ (condition 2048 4 2048).toInt = 0 ∧
    (condition 2048 4 2047).toInt = -1

/-- R152 with R172: a tick in RX mode stores one raw sample while a capture runs and the fragment has room, and is lost else; it
touches `frag` and `fragFill` alone. The first clause is the model's choice (log entry 8, DEDUCED): a tick offered with the clock
stopped or in the LORA build, where there is none, changes nothing. -/
def Obligations.TickRxResult : Prop :=
  ∀ (s : State) (rest : List Stimulus), s.env.agenda = .tick :: rest → s.env.rstN = true →
    (s.build.backend ≠ .afsk ∨ s.clk.clkRun = false →
      step s = .next { s with env.agenda := rest, out := StepOut.none }) ∧
    (s.build.backend = .afsk → s.clk.clkRun = true → s.clk.clkMode = .rx →
      (s.cap.capState = .run ∧ s.cap.fragFill < s.build.fragLen →
        ∃ m, Memory.fragAt m s.cap.fragFill = s.env.nextAdc.1 ∧
          (∀ x, x ≠ s.cap.fragFill → Memory.fragAt m x = Memory.fragAt s.cap.frag x) ∧
          step s =
            .next { s with
                    env := { s.env.nextAdc.2 with agenda := rest }
                    cap.frag := m
                    cap.fragFill := s.cap.fragFill + 1
                    out := StepOut.none }) ∧
      (¬ (s.cap.capState = .run ∧ s.cap.fragFill < s.build.fragLen) →
        step s = .next { s with env := { s.env.nextAdc.2 with agenda := rest }, out := StepOut.none }))

/-- R160, R161: one fragment entry. Another channel's or an invalid sample is skipped; a valid one is conditioned, shown to the
detector, and appended and counted (even when the ring drops it), ignored, or made the boundary that discards a short candidate
or delivers the frame. -/
def Obligations.ProcessSampleResult : Prop :=
  ∀ (s : State) (e : AdcSample),
    (e.valid = false ∨ e.chan ≠ s.build.adcChan → processSample e s = s) ∧
    (e.valid = true → e.chan = s.build.adcChan →
      let v := condition s.cap.dcOffset s.cap.scaleShift e.raw
      let u : State := { s with out.detSample := some v, env := s.env.nextDet.2 }
      (s.env.nextDet.1 = true →
        ((0 < s.unread ∧ s.ring.writeCursor = s.ring.readCursor) ∨ s.ring.provisionalFrameLength = s.build.ringCap - 1 →
          processSample e s = { u with cap.capCount := satAdd s.cap.capCount 1 }) ∧
        (¬ (0 < s.unread ∧ s.ring.writeCursor = s.ring.readCursor) → s.ring.provisionalFrameLength ≠ s.build.ringCap - 1 →
          ∃ m, Stored .buf s.ring.buf s.ring.writeCursor [v] m ∧
            processSample e s =
              { u with
                cap.capCount := satAdd s.cap.capCount 1
                ring.buf := m
                ring.writeCursor := (s.ring.writeCursor + 1) % s.build.ringCap
                ring.provisionalFrameLength := s.ring.provisionalFrameLength + 1 })) ∧
      (s.env.nextDet.1 = false → s.cap.capCount = 0 → processSample e s = u) ∧
      (s.env.nextDet.1 = false → s.cap.capCount ≠ 0 → s.cap.capCount.toNat < s.build.minFrame →
        processSample e s =
          { u with
            ring.provisionalFrameStart := s.ring.writeCursor
            ring.provisionalFrameLength := 0
            cap.capCount := 0
            cap.pendingBoundary := false
            events.evt := s.events.evt ||| 0x0002 }) ∧
      (s.env.nextDet.1 = false → s.cap.capCount ≠ 0 → s.build.minFrame ≤ s.cap.capCount.toNat →
        processSample e s =
          { u with
            cap.capLen := s.cap.capCount
            cap.capCount := 0
            cap.pendingBoundary := false
            cap.fragFill := 0
            cap.fragIdx := 0
            cap.capState := .done
            events.evt := s.events.evt ||| 0x0001 }))

/-- R157: the capture worker's step. Not enabled, it takes none (log entry 8); in `CAP_WAIT` it starts pulling fragments; in
`CAP_RUN` it processes the next entry of a full fragment (`processSample`, stated by itself) and, after the last one, makes the
loop test, where a closed squelch is a boundary (R161). -/
def Obligations.CapStepResult : Prop :=
  ∀ (s : State) (rest : List Stimulus), s.env.agenda = .capStep :: rest → s.env.rstN = true →
    let u : State := { s with env.agenda := rest, out := StepOut.none }
    (s.build.backend ≠ .afsk ∨ s.cap.capState = .idle ∨ s.cap.capState = .done ∨
        (s.cap.capState = .wait ∧ s.env.squelchOpen = false ∧ s.cap.capForce = false) ∨
        (s.cap.capState = .run ∧ s.cap.fragFill ≠ s.build.fragLen) →
      step s = .next u) ∧
    (s.build.backend = .afsk → s.cap.capState = .wait → s.env.squelchOpen = true ∨ s.cap.capForce = true →
      step s = .next { u with cap.capState := .run, cap.fragFill := 0, cap.fragIdx := 0 }) ∧
    (s.build.backend = .afsk → s.cap.capState = .run → s.cap.fragFill = s.build.fragLen →
      let w := processSample (Memory.fragAt s.cap.frag s.cap.fragIdx) { u with cap.fragIdx := s.cap.fragIdx + 1 }
      let f : State := { w with cap.fragFill := 0, cap.fragIdx := 0 }
      (w.cap.capState ≠ .run ∨ s.cap.fragIdx + 1 ≠ s.build.fragLen → step s = .next w) ∧
      (w.cap.capState = .run → s.cap.fragIdx + 1 = s.build.fragLen →
        (s.env.squelchOpen = true ∨ s.cap.capForce = true → step s = .next f) ∧
        (s.env.squelchOpen = false → s.cap.capForce = false →
          (w.cap.capCount = 0 → step s = .next { f with cap.capState := .wait }) ∧
          (w.cap.capCount ≠ 0 → w.cap.capCount.toNat < s.build.minFrame →
            step s =
              .next { f with
                      ring.provisionalFrameStart := w.ring.writeCursor
                      ring.provisionalFrameLength := 0
                      cap.capCount := 0
                      cap.pendingBoundary := false
                      cap.capState := .wait
                      events.evt := w.events.evt ||| 0x0002 }) ∧
          (w.cap.capCount ≠ 0 → s.build.minFrame ≤ w.cap.capCount.toNat →
            step s =
              .next { f with
                      cap.capLen := w.cap.capCount
                      cap.capCount := 0
                      cap.pendingBoundary := false
                      cap.capState := .done
                      events.evt := w.events.evt ||| 0x0001 }))))

/-- R24 (ii), R132: while a committed sample is unread, no step of any agent overwrites the cell the reader stands at. -/
def Obligations.UnreadSampleKept : Prop :=
  ∀ s t : State, step s = .next t → 0 < s.unread →
    Memory.byteAt .buf t.ring.buf s.ring.readCursor = Memory.byteAt .buf s.ring.buf s.ring.readCursor

/-- R137 (a): with no committed frame and the cursors equal (as after reset), up to `N - 1` puts and as many gets return the
samples in order. -/
def Obligations.PutsThenGetsInOrder : Prop :=
  ∀ (s : State) (vs : List Byte),
    s.build.backend = .afsk → s.ring.rbEnabled = true → (s.cap.capState = .idle ∨ s.cap.capState = .done) →
    s.ring.committedFrameLength = 0 → s.ring.readCursor = s.ring.writeCursor → s.ring.writeCursor < s.build.ringCap →
    s.ring.provisionalFrameLength + vs.length ≤ s.build.ringCap - 1 →
      runAnswers (vs.map Instr.rbput ++ List.replicate vs.length .rbget) s =
        List.replicate vs.length (some ⟨.ok, 0⟩) ++ vs.map fun v => some ⟨.ok, v.signExtend 32⟩

/-- R137 (b), R135: a frame put, committed and read back gives its samples, and after a second RBRESET gives them again. -/
def Obligations.CommittedFrameReplays : Prop :=
  ∀ (s : State) (vs : List Byte),
    s.build.backend = .afsk → s.ring.rbEnabled = true → (s.cap.capState = .idle ∨ s.cap.capState = .done) →
    s.unread = 0 → s.ring.writeCursor < s.build.ringCap → vs.length ≤ s.build.ringCap - 1 →
      runAnswers
          ([Instr.rbnext] ++ vs.map Instr.rbput ++ [.rblast, .rbreset] ++ List.replicate vs.length .rbget ++ [.rbreset]
            ++ List.replicate vs.length .rbget) s =
        [some ⟨.ok, 0⟩] ++ List.replicate vs.length (some ⟨.ok, 0⟩) ++ [some ⟨.ok, BitVec.ofNat 32 vs.length⟩, some ⟨.ok, 0⟩]
          ++ vs.map (fun v => some ⟨.ok, v.signExtend 32⟩) ++ [some ⟨.ok, 0⟩] ++ vs.map fun v => some ⟨.ok, v.signExtend 32⟩

/-- R137 (c), R367: after RBLAST of a frame of `L > 0` samples (the reader at its start, the writer at its end), RBEOF answers 0
before each of the first `L` RBGET and 1 after the `L`-th, whatever is done in between: the host's puts and candidate frames, or the
capture worker's (CAPSTART, CAPSTOP, ticks, CAPSTEPs), drops and discards among them, and every other operation and event but a reset,
the next RBLAST and RBRESET. `es` is what the agenda offers up to the RBEOF, so the count holds before every read. -/
def Obligations.EofExactlyAtFrameEnd : Prop :=
  ∀ (s : State) (es rest : List Stimulus),
    s.build.backend = .afsk → s.ring.rbEnabled = true → s.env.rstN = true → RingInv s.build s.ring →
    0 < s.ring.committedFrameLength → s.ring.readCursor = s.ring.committedFrameStart → s.ring.writeCursor = s.committedEnd →
    s.env.agenda = es ++ rest → (∀ e ∈ es, e.keepsFrame = true) →
    let reads := es.countP fun e => e.instr? == some .rbget
    reads ≤ s.ring.committedFrameLength →
      ∃ t, runSteps es.length s = some t ∧
        exec .rbeof t = .next (t.withRsp .ok (if reads = s.ring.committedFrameLength then 1 else 0))

/-! ### Modulator (43_modulator.md) -/

/-- R180, R181, R183: TXQPUSH and TXSTART, with the first bit loaded at key-up. -/
def Obligations.TransmitQueueResult : Prop :=
  ∀ (s : State) (v : Byte),
    (s.build.backend ≠ .afsk → ∀ i ∈ [Instr.txqpush v, .txstart], exec i s = .next (s.withRsp .absent 0)) ∧
    (s.build.backend = .afsk →
      (s.tx.txq.length = s.build.txqDepth → exec (.txqpush v) s = .next (s.withRsp .full 0)) ∧
      (s.tx.txq.length ≠ s.build.txqDepth →
        exec (.txqpush v) s = .next (({ s with tx.txq := s.tx.txq ++ [v] } : State).withRsp .ok 0)) ∧
      (s.tx.txState = .keyed ∨ s.tx.txq = [] → exec .txstart s = .next (s.withRsp .ok 0)) ∧
      ∀ b q, s.tx.txState = .idle → s.tx.txq = b :: q →
        let k : State := { s with tx.ptt := true, tx.toneOn := true, tx.txState := .keyed, avail.txOff := false }
        (s.tx.txBitsLeft = 0 →
          exec .txstart s =
            .next (({ k with
                      tx.txq := q
                      tx.txCurBit := b.getLsbD 0
                      tx.txByte := b >>> 1
                      tx.txBitsLeft := 7
                      tx.txCurValid := true } : State).withRsp .ok 0)) ∧
        (0 < s.tx.txBitsLeft →
          exec .txstart s =
            .next (({ k with
                      tx.txCurBit := s.tx.txByte.getLsbD 0
                      tx.txByte := s.tx.txByte >>> 1
                      tx.txBitsLeft := s.tx.txBitsLeft - 1
                      tx.txCurValid := true } : State).withRsp .ok 0)))

/-- R186, R187, R185: a tick in TX mode: nothing while idle; the de-key once the last load found nothing; else the current bit is
emitted (0 toggles the tone, 1 holds it) and then the next one loaded. Nothing outside the modulator, `txOff` and `EV_TXDONE`
changes. -/
def Obligations.TickTxResult : Prop :=
  ∀ (s : State) (rest : List Stimulus), s.env.agenda = .tick :: rest → s.env.rstN = true → s.build.backend = .afsk →
    s.clk.clkRun = true → s.clk.clkMode = .tx →
    let u : State := { s with env.agenda := rest, out := StepOut.none }
    let tone : Tone := if s.tx.txCurBit = true then s.tx.toneSel else if s.tx.toneSel = .mark then .space else .mark
    (s.tx.txState = .idle → step s = .next u) ∧
    (s.tx.txState = .keyed → s.tx.txCurValid = false →
      step s =
        .next { u with
                tx.ptt := false
                tx.toneOn := false
                tx.txState := .idle
                avail.txOff := true
                events.evt := s.events.evt ||| 0x0004 }) ∧
    (s.tx.txState = .keyed → s.tx.txCurValid = true →
      (0 < s.tx.txBitsLeft →
        step s =
          .next { u with
                  tx.toneSel := tone
                  tx.txCurBit := s.tx.txByte.getLsbD 0
                  tx.txByte := s.tx.txByte >>> 1
                  tx.txBitsLeft := s.tx.txBitsLeft - 1 }) ∧
      (∀ b q, s.tx.txBitsLeft = 0 → s.tx.txq = b :: q →
        step s =
          .next { u with
                  tx.toneSel := tone
                  tx.txq := q
                  tx.txCurBit := b.getLsbD 0
                  tx.txByte := b >>> 1
                  tx.txBitsLeft := 7 }) ∧
      (s.tx.txBitsLeft = 0 → s.tx.txq = [] →
        step s = .next { u with tx.toneSel := tone, tx.txCurValid := false }))

/-- R184, R185, R186 (iv): `n` bytes queued before TXSTART are sent as they are, bit 0 first, in exactly `8n` emitting ticks, the
tone after each as the bits so far make it; the next tick de-keys with the queue empty. -/
def Obligations.TransmissionEmitsBits : Prop :=
  ∀ s : State, s.build.backend = .afsk → s.tx.txState = .idle → s.tx.txBitsLeft = 0 → s.tx.txq ≠ [] →
    ∃ t, exec .txstart s = .next t ∧
      (∀ k, k ≤ 8 * s.tx.txq.length →
        (tickTx^[k] t).tx.txState = .keyed ∧ (tickTx^[k] t).tx.ptt = true ∧
          (tickTx^[k] t).tx.toneSel = toneAfter s.tx.toneSel ((bitStream s.tx.txq).take k)) ∧
      (let d := tickTx^[8 * s.tx.txq.length + 1] t
       d.tx.txState = .idle ∧ d.tx.ptt = false ∧ d.tx.toneOn = false ∧ d.avail.txOff = true ∧ d.tx.txq = [] ∧
         d.events.evt.getLsbD 2 = true ∧ d.tx.toneSel = toneAfter s.tx.toneSel (bitStream s.tx.txq))

/-! ### Codec (44_ax25_codec.md) and the byte buffers -/

/-- R201, R202, R203, R212, R213, R214, R250, R251, R252: clearing, appending to and reading the three byte buffers; a byte is
stored at the buffer's length and nowhere else. -/
def Obligations.ByteBufferResult : Prop :=
  ∀ (s : State) (v : Byte),
    exec .strclr s = .next (({ s with codec.strLen := 0, codec.strRd := 0 } : State).withRsp .ok 0) ∧
    exec .axbclr s = .next (({ s with codec.axbLen := 0, codec.axbRd := 0 } : State).withRsp .ok 0) ∧
    (s.codec.strLen = s.build.strCap → exec (.strput v) s = .next (s.withRsp .full 0)) ∧
    (s.codec.strLen ≠ s.build.strCap →
      ∃ m, Stored .strb s.codec.strb s.codec.strLen [v] m ∧
        exec (.strput v) s = .next (({ s with codec.strb := m, codec.strLen := s.codec.strLen + 1 } : State).withRsp .ok 0)) ∧
    (s.codec.axbLen = s.build.axbCap → exec (.axbput v) s = .next (s.withRsp .full 0)) ∧
    (s.codec.axbLen ≠ s.build.axbCap →
      ∃ m, Stored .axb s.codec.axb s.codec.axbLen [v] m ∧
        exec (.axbput v) s = .next (({ s with codec.axb := m, codec.axbLen := s.codec.axbLen + 1 } : State).withRsp .ok 0)) ∧
    (s.codec.strLen ≤ s.codec.strRd → exec .strget s = .next (s.withRsp .empty 0)) ∧
    (s.codec.strRd < s.codec.strLen →
      exec .strget s =
        .next (({ s with codec.strRd := s.codec.strRd + 1 } : State).withRsp
          .ok ((Memory.byteAt .strb s.codec.strb s.codec.strRd).setWidth 32))) ∧
    (s.codec.axbLen ≤ s.codec.axbRd → exec .axbget s = .next (s.withRsp .empty 0)) ∧
    (s.codec.axbRd < s.codec.axbLen →
      exec .axbget s =
        .next (({ s with codec.axbRd := s.codec.axbRd + 1 } : State).withRsp
          .ok ((Memory.byteAt .axb s.codec.axb s.codec.axbRd).setWidth 32))) ∧
    (s.build.backend = .lora →
      exec .lpbclr s = .next (({ s with lora.lpbLen := 0 } : State).withRsp .ok 0) ∧
      (s.lora.lpbLen = s.build.lpbCap → exec (.lpbput v) s = .next (s.withRsp .full 0)) ∧
      (s.lora.lpbLen ≠ s.build.lpbCap →
        ∃ m, Stored .lpb s.lora.lpb s.lora.lpbLen [v] m ∧
          exec (.lpbput v) s = .next (({ s with lora.lpb := m, lora.lpbLen := s.lora.lpbLen + 1 } : State).withRsp .ok 0)) ∧
      (s.lora.lpbLen ≤ v.toNat → exec (.lpbrd v) s = .next (s.withRsp .range 0)) ∧
      (v.toNat < s.lora.lpbLen →
        exec (.lpbrd v) s = .next (s.withRsp .ok ((Memory.byteAt .lpb s.lora.lpb v.toNat).setWidth 32)))) ∧
    (s.build.backend ≠ .lora →
      ∀ i ∈ [Instr.lpbclr, .lpbput v, .lpbrd v], exec i s = .next (s.withRsp .absent 0))

/-- R207, R208, R209, R210, R211: the fields of an address record and the frame registers, each write leaving the other records
and fields alone; an index above 8 is refused. -/
def Obligations.AddressFieldResult : Prop :=
  ∀ (s : State) (idx v : Byte),
    (8 < idx.toNat →
      ∀ i ∈ [Instr.axssid idx v, .axflg idx v, .axrd idx], exec i s = .next (s.withRsp .range 0)) ∧
    (∀ A, s.codec.addr[idx.toNat]? = some A →
      exec (.axrd idx) s = .next (s.withRsp .ok ((A.ssid ++ A.flags).setWidth 32)) ∧
      exec (.axssid idx v) s =
        .next (({ s with
                  codec.addr := s.codec.addr.setIfInBounds idx.toNat { A with ssid := v.setWidth 4 } } : State).withRsp .ok 0) ∧
      exec (.axflg idx v) s =
        .next (({ s with
                  codec.addr := s.codec.addr.setIfInBounds idx.toNat { A with flags := v &&& 0x81 } } : State).withRsp .ok 0)) ∧
    (∀ n : BitVec 4, exec (.axndigi n) s = .next (({ s with codec.axNdigi := n } : State).withRsp .ok 0)) ∧
    ∀ ctrl pid : Byte,
      exec (.axctl ctrl pid) s = .next (({ s with codec.axCtrl := ctrl, codec.axPid := pid } : State).withRsp .ok 0)

/-- R204: a string is spaces, a callsign up to the first `-`, and perhaps a `-`, decimal digits and a rest that starts with none;
what it parses to: six characters of the callsign, 7-bit and upper case, padded with spaces, and the digits' value modulo 16. -/
def Obligations.ParseAddrFormula : Prop :=
  ∀ (n : Nat) (call : List Byte), (∀ c ∈ call, c ≠ 0x2D) → call.head? ≠ some 0x20 →
    let chars := call.map fun c : Byte =>
      if 0x61 ≤ c &&& 0x7F ∧ c &&& 0x7F ≤ 0x7A then (c &&& 0x7F) - 0x20 else c &&& 0x7F
    ((parseAddr (List.replicate n 0x20 ++ call)).1.toList = (chars ++ List.replicate 6 0x20).take 6 ∧
      (parseAddr (List.replicate n 0x20 ++ call)).2 = 0) ∧
    ∀ ds more : List Byte, (∀ d ∈ ds, 0x30 ≤ d ∧ d ≤ 0x39) → (∀ d, more.head? = some d → ¬ (0x30 ≤ d ∧ d ≤ 0x39)) →
      let t := List.replicate n 0x20 ++ call ++ 0x2D :: (ds ++ more)
      (parseAddr t).1.toList = (chars ++ List.replicate 6 0x20).take 6 ∧
        (parseAddr t).2 = BitVec.ofNat 4 (decimalValue ds)

/-- R205, R224: S2A parses the whole string buffer into one record; S2D splits it at every comma and parses at most seven items
into the digipeater records. No other record, no buffer and no index changes. -/
def Obligations.StringToAddressResult : Prop :=
  ∀ s : State,
    (∀ idx : Byte, 8 < idx.toNat → exec (.s2a idx) s = .next (s.withRsp .range 0)) ∧
    (∀ idx : Byte, idx.toNat ≤ 8 →
      let p := parseAddr (Memory.bytes .strb s.codec.strb 0 s.codec.strLen)
      exec (.s2a idx) s =
        .next (({ s with codec.addr := s.codec.addr.setIfInBounds idx.toNat ⟨p.1, p.2, 0⟩ } : State).withRsp .ok 0)) ∧
    (let items := if s.codec.strLen = 0 then []
        else ((Memory.bytes .strb s.codec.strb 0 s.codec.strLen).splitOn 0x2C).take 7
     ∃ addr : Vector Ax25Address 9,
      (∀ i, i < 2 ∨ 2 + items.length ≤ i → addr[i]? = s.codec.addr[i]?) ∧
      (∀ i t, items[i]? = some t → addr[2 + i]? = some ⟨(parseAddr t).1, (parseAddr t).2, 0⟩) ∧
      exec .s2d s =
        .next (({ s with codec.addr := addr, codec.axNdigi := BitVec.ofNat 4 items.length } : State).withRsp
          .ok (BitVec.ofNat 32 items.length)))

/-- R206, R225, R210: A2S and D2S replace the string buffer's content by the string of an address or of the first
`min(axNdigi, 7)` digipeaters joined by commas, and put its read index at the start. -/
def Obligations.AddressToStringResult : Prop :=
  ∀ s : State,
    (∀ idx : Byte, 8 < idx.toNat → exec (.a2s idx) s = .next (s.withRsp .range 0)) ∧
    (∀ (idx : Byte) (A : Ax25Address), s.codec.addr[idx.toNat]? = some A →
      ∃ m, Stored .strb s.codec.strb 0 (addressString A) m ∧
        exec (.a2s idx) s =
          .next (({ s with codec.strb := m, codec.strLen := (addressString A).length, codec.strRd := 0 } : State).withRsp
            .ok (BitVec.ofNat 32 (addressString A).length))) ∧
    ∀ short : Bool,
      let path := (s.codec.addr.toList.drop 2).take (min s.codec.axNdigi.toNat 7)
      let text := List.intercalate [0x2C] (path.map (formatDigi short))
      ∃ m, Stored .strb s.codec.strb 0 text m ∧
        exec (.d2s short) s =
          .next (({ s with codec.strb := m, codec.strLen := text.length, codec.strRd := 0 } : State).withRsp
            .ok (BitVec.ofNat 32 text.length))

/-- R225, R112: a digipeater is written in full unless abbreviation is asked for and its callsign is `WIDE`, one digit and a
space; then it is `W` and the digit, with the usual suffix but for `WIDE1-1` and `WIDE2-2`. -/
def Obligations.DigiAbbreviation : Prop :=
  ∀ A : Ax25Address,
    formatDigi false A = addressString A ∧
    ((∀ d : Byte, 0x30 ≤ d → d ≤ 0x39 → A.call ≠ ⟨0x57, 0x49, 0x44, 0x45, d, 0x20⟩) → formatDigi true A = addressString A) ∧
    ∀ d : Byte, 0x30 ≤ d → d ≤ 0x39 → A.call = ⟨0x57, 0x49, 0x44, 0x45, d, 0x20⟩ →
      formatDigi true A =
        [0x57, d] ++
          (if (d = 0x31 ∧ A.ssid = 1) ∨ (d = 0x32 ∧ A.ssid = 2) ∨ A.ssid = 0 then []
            else 0x2D :: decimalDigits A.ssid.toNat)

/-- R108, R215, R216: AXENC appends the header of the frame registers to the byte buffer, or as many of its bytes as fit, and
changes nothing else. -/
def Obligations.AxencResult : Prop :=
  ∀ s : State, s.codec.axbLen ≤ s.build.axbCap →
    let h := wireHeader s.codec
    let n := min h.length (s.build.axbCap - s.codec.axbLen)
    ∃ m, Stored .axb s.codec.axb s.codec.axbLen (h.take n) m ∧
      exec .axenc s =
        .next (({ s with codec.axb := m, codec.axbLen := s.codec.axbLen + n } : State).withRsp
          (if n = h.length then .ok else .full) (BitVec.ofNat 32 n))

/-- R218, R214: AXDEC takes destination, source and digipeaters up to the first one flagged last or the seventh, then control and
PID; bytes past the end read as 0x00; the records beyond the count, and everything outside the codec registers, stay. -/
def Obligations.AxdecResult : Prop :=
  ∀ s : State, s.codec.axbRd ≤ s.codec.axbLen →
    ∃ (count : Nat) (addr : Vector Ax25Address 9),
      count ≤ 7 ∧
      (∀ k, k < count → (takenByte s (7 * (1 + k) + 6)).getLsbD 0 = false) ∧
      (count = 7 ∨ (takenByte s (7 * (1 + count) + 6)).getLsbD 0 = true) ∧
      (∀ i, i < 2 + count → addr[i]? = some (takenAddress s i)) ∧
      (∀ i, 2 + count ≤ i → addr[i]? = s.codec.addr[i]?) ∧
      (let ctrl := takenByte s (14 + 7 * count)
       exec .axdec s =
        .next (({ s with
                  codec.addr := addr
                  codec.axNdigi := BitVec.ofNat 4 count
                  codec.axCtrl := ctrl
                  codec.axPid := if hasPid ctrl then takenByte s (15 + 7 * count) else 0
                  codec.axbRd := min s.codec.axbLen (s.codec.axbRd + 15 + 7 * count + if hasPid ctrl then 1 else 0) } : State).withRsp
          .ok (BitVec.ofNat 32 count)))

/-- R220: (a) from a consistent frame-register state, AXBCLR, AXENC, AXDEC restore the addresses in use, the digipeater count, the
control byte and the PID byte; (b) from a buffer holding a canonical header at the read index, AXDEC, AXBCLR, AXENC leave the same
header bytes in the buffer. `AXB_CAP` is at least 65 in every build (R8). -/
def Obligations.HeaderRoundTrips : Prop :=
  (∀ s : State, Consistent s → 65 ≤ s.build.axbCap →
    ∃ t, runOps [.axbclr, .axenc, .axdec] s = some t ∧ addressesInUse t = addressesInUse s ∧
      t.codec.axNdigi = s.codec.axNdigi ∧ t.codec.axCtrl = s.codec.axCtrl ∧ t.codec.axPid = s.codec.axPid) ∧
  ∀ (s : State) (n : Nat) (h : List Byte), CanonicalHeader n h → s.codec.axbRd + h.length ≤ s.codec.axbLen →
    Memory.bytes .axb s.codec.axb s.codec.axbRd h.length = h → 65 ≤ s.build.axbCap →
    ∃ t, runOps [.axdec, .axbclr, .axenc] s = some t ∧ t.codec.axbLen = h.length ∧
      Memory.bytes .axb t.codec.axb 0 t.codec.axbLen = h

/-- R200: a codec operation writes the codec's registers and the response alone, and both are functions of the codec's registers:
no input, no other engine and no build but the buffer capacities can be seen in them. -/
def Obligations.CodecIsPure : Prop :=
  ∀ (i : Instr) (s₁ s₂ : State), isCodecOp i = true → s₁.codec = s₂.codec → s₁.build.axbCap = s₂.build.axbCap →
    s₁.build.strCap = s₂.build.strCap →
    ∃ (c : Codec) (r : Response),
      exec i s₁ = .next { s₁ with codec := c, out.rsp := some r } ∧ exec i s₂ = .next { s₂ with codec := c, out.rsp := some r }

/-! ### LoRa sequencer (45_lora_primitives.md, 46_lora_packet_config.md) -/

/-- R117: the masked sub-field is tested first, then the all-zero and all-one bytes; with the chip constants of R118 no byte meets
both tests. -/
def Obligations.InspectFormula : Prop :=
  ∀ (c : ChipTable) (b : Byte),
    (b &&& c.statusMask = c.stCmdTimeout → (inspect c b).code = 0x01) ∧
    (b &&& c.statusMask ≠ c.stCmdTimeout → b &&& c.statusMask = c.stCmdInvalid → (inspect c b).code = 0x02) ∧
    (b &&& c.statusMask ≠ c.stCmdTimeout → b &&& c.statusMask ≠ c.stCmdInvalid → b &&& c.statusMask = c.stCmdFailed →
      (inspect c b).code = 0x03) ∧
    (b &&& c.statusMask ≠ c.stCmdTimeout → b &&& c.statusMask ≠ c.stCmdInvalid → b &&& c.statusMask ≠ c.stCmdFailed →
      (inspect c b).code = if b = 0x00 ∨ b = 0xFF then 0x04 else 0x00) ∧
    (c = {} → b = 0x00 ∨ b = 0xFF →
      b &&& c.statusMask ≠ c.stCmdTimeout ∧ b &&& c.statusMask ≠ c.stCmdInvalid ∧ b &&& c.statusMask ≠ c.stCmdFailed)

/-- R243, R244: LWAIT polls at most its bound and tells whether the wait ended idle; a timeout with the polled form is refused. -/
def Obligations.LwaitResult : Prop :=
  ∀ (s : State) (t : Half), s.build.backend = .lora →
    (t ≠ 0 → exec (.lwait .polled t) s = .next (s.withRsp .range 0)) ∧
    (∃ idle m, DoesBus s [.wait s.build.pollAttempts idle] m ∧
      exec (.lwait .polled 0) s = .next (m.withRsp .ok (if idle then 1 else 0))) ∧
    ∃ idle m, DoesBus s [.wait (if t = 0 then s.lora.busyTimeout.toNat else t.toNat) idle] m ∧
      exec (.lwait .single t) s = .next (m.withRsp .ok (if idle then 1 else 0))

/-- R253, R255, R257 with R245, R247: the three write primitives: a write command with retry, its payload from the buffer or the
operands, and `LLAST` as the answer, also when the command was abandoned. `csAsserted` is 0 between operations (`Inv`). -/
def Obligations.WritePrimitivesResult : Prop :=
  ∀ (s : State) (a n v : Byte) (reg : Half), s.build.backend = .lora → s.lora.csAsserted = false → 1 ≤ s.build.maxAttempts →
    (s.lora.lpbLen < n.toNat → ∀ i ∈ [Instr.lwcmd a n, .lwbuf a n], exec i s = .next (s.withRsp .range 0)) ∧
    (n.toNat ≤ s.lora.lpbLen →
      (∃ m, DoesBus s [.write a (Memory.bytes .lpb s.lora.lpb 0 n.toNat)] m ∧
        exec (.lwcmd a n) s = .next (m.withRsp .ok ((m.lora.lastAttempts ++ m.lora.lastStatus).setWidth 32))) ∧
      ∃ m, DoesBus s [.write s.build.chip.opcWriteBuffer (a :: Memory.bytes .lpb s.lora.lpb 0 n.toNat)] m ∧
        exec (.lwbuf a n) s = .next (m.withRsp .ok ((m.lora.lastAttempts ++ m.lora.lastStatus).setWidth 32))) ∧
    ∃ m, DoesBus s [.write s.build.chip.opcWriteRegister [reg.extractLsb' 8 8, reg.extractLsb' 0 8, v]] m ∧
      exec (.lwreg reg v) s = .next (m.withRsp .ok ((m.lora.lastAttempts ++ m.lora.lastStatus).setWidth 32))

/-- R254, R256, R258, R280, R281 with R246: the read primitives and status queries: one bracketed transaction, never inspected;
the data answer the operation or replace the buffer's content. -/
def Obligations.ReadPrimitivesResult : Prop :=
  ∀ (s : State) (a p n : Byte) (reg : Half), s.build.backend = .lora → s.lora.csAsserted = false →
    (s.lora.lpbLen < p.toNat → exec (.lrcmd a p n) s = .next (s.withRsp .range 0)) ∧
    (p.toNat ≤ s.lora.lpbLen →
      ∃ data m lpb, data.length = n.toNat ∧ DoesBus s [.read a (Memory.bytes .lpb s.lora.lpb 0 p.toNat) data] m ∧
        Stored .lpb s.lora.lpb 0 data lpb ∧
        exec (.lrcmd a p n) s =
          .next (({ m with lora.lpb := lpb, lora.lpbLen := n.toNat } : State).withRsp .ok (n.setWidth 32))) ∧
    (∃ data m lpb, data.length = n.toNat ∧ DoesBus s [.read s.build.chip.opcReadBuffer [a] data] m ∧
      Stored .lpb s.lora.lpb 0 data lpb ∧
      exec (.lrbuf a n) s =
        .next (({ m with lora.lpb := lpb, lora.lpbLen := n.toNat } : State).withRsp .ok (n.setWidth 32))) ∧
    (∃ d m, DoesBus s [.read s.build.chip.opcReadRegister [reg.extractLsb' 8 8, reg.extractLsb' 0 8] [d]] m ∧
      exec (.lrreg reg) s = .next (m.withRsp .ok (d.setWidth 32))) ∧
    (∃ d m, DoesBus s [.read s.build.chip.opcGetRssiInst [] [d]] m ∧
      exec .lrssi s = .next (m.withRsp .ok (d.setWidth 32))) ∧
    ∃ d₀ d₁ d₂ m lpb, DoesBus s [.read s.build.chip.opcGetPacketStatus [] [d₀, d₁, d₂]] m ∧
      Stored .lpb s.lora.lpb 0 [d₀, d₁, d₂] lpb ∧
      exec .lpktst s =
        .next (({ m with lora.lpb := lpb, lora.lpbLen := 3 } : State).withRsp .ok ((d₀ ++ d₁ ++ d₂).setWidth 32))

/-- R249: with the busy pin low, a chip that answers INVALID to the first payload byte of three attempts and good status to the
fourth sees exactly four bracketed attempts; one that fails every attempt sees ten, and the command is a logged failure, still
answered `ST_OK`. `bad` lists what the chip returns in each failed attempt: to the opcode, then to the payload byte. -/
def Obligations.RetryProperty : Prop :=
  ∀ (s : State) (opc p r g : Byte) (bad : List (Byte × Byte)) (polls : List Bool) (bytes : List Byte),
    s.build.backend = .lora → s.lora.csAsserted = false → s.build.maxAttempts = 10 → s.lora.busyTimeout ≠ 0 →
    1 ≤ s.lora.lpbLen → Memory.byteAt .lpb s.lora.lpb 0 = p → s.out.trace = [] →
    let attempt (o st : Byte) : List BusEvent := [.poll false, .select, .xfer opc o, .xfer p st, .deselect, .poll false]
    (bad.length = 3 → (∀ x ∈ bad, inspect s.build.chip x.2 = .invalid) → inspect s.build.chip g = .ok →
      s.env.busy = List.replicate 8 false ++ polls →
      s.env.busIn = (bad.flatMap fun x => [x.1, x.2]) ++ [r, g] ++ bytes →
      exec (.lwcmd opc 1) s =
        .next (({ s with
                  lora.lastStatus := 0
                  lora.lastAttempts := 4
                  events.logWarn := satAdd s.events.logWarn 3
                  events.evt := s.events.evt ||| 0x0040
                  env.busy := polls
                  env.busIn := bytes
                  out.trace := (bad.flatMap fun x => attempt x.1 x.2) ++ attempt r g } : State).withRsp .ok 0x00000400)) ∧
    (bad.length = 10 → (∀ x ∈ bad, inspect s.build.chip x.2 ≠ .ok) →
      s.env.busy = List.replicate 20 false ++ polls → s.env.busIn = (bad.flatMap fun x => [x.1, x.2]) ++ bytes →
      ∃ st : LoraOutcome, bad.getLast?.map (fun x => inspect s.build.chip x.2) = some st ∧ st.code ≠ 0 ∧
        exec (.lwcmd opc 1) s =
          .next (({ s with
                    lora.lastStatus := st.code
                    lora.lastAttempts := 10
                    events.logWarn := satAdd s.events.logWarn 10
                    events.logFail := satAdd s.events.logFail 1
                    events.evt := s.events.evt ||| 0x00C0
                    env.busy := polls
                    env.busIn := bytes
                    out.trace := bad.flatMap fun x => attempt x.1 x.2 } : State).withRsp
            .ok (((10 : Byte) ++ st.code).setWidth 32)))

/-- R259: one write command makes at most `MAX_ATTEMPTS × 2 × busyTimeout` polls and `MAX_ATTEMPTS × (1 + n)` transfers, one read
transaction at most `2 × busyTimeout` polls and `1 + p + READ_SKIP + n` transfers. -/
def Obligations.BusWorkBounded : Prop :=
  ∀ (s t : State) (opc p n : Byte), s.build.backend = .lora → s.out.trace = [] → 1 ≤ s.build.maxAttempts →
    let polls := (t.out.trace.filter fun e => match e with | .poll _ => true | _ => false).length
    let transfers := (t.out.trace.filter fun e => match e with | .xfer _ _ => true | _ => false).length
    (exec (.lwcmd opc n) s = .next t →
      polls ≤ s.build.maxAttempts * (2 * s.lora.busyTimeout.toNat) ∧ transfers ≤ s.build.maxAttempts * (1 + n.toNat)) ∧
    (exec (.lrcmd opc p n) s = .next t →
      polls ≤ 2 * s.lora.busyTimeout.toNat ∧ transfers ≤ 1 + p.toNat + s.build.chip.readSkip + n.toNat)

/-- R272, R119: LSEND's five steps in their order, whatever the outcome of each; the header type is variable-length whatever
`fixedLen` holds. -/
def Obligations.LsendResult : Prop :=
  ∀ (s : State) (len : Byte), s.build.backend = .lora → s.lora.csAsserted = false → 1 ≤ s.build.maxAttempts →
    (s.lora.lpbLen < len.toNat → exec (.lsend len) s = .next (s.withRsp .range 0)) ∧
    (len.toNat ≤ s.lora.lpbLen →
      ∃ m, DoesBus s
          [ .write s.build.chip.opcSetPacketParams
              [s.lora.pktPreamble.extractLsb' 8 8, s.lora.pktPreamble.extractLsb' 0 8, 0x00, len,
                if s.lora.pktFlags.getLsbD 1 then 0x01 else 0x00, if s.lora.pktFlags.getLsbD 2 then 0x01 else 0x00],
            .write s.build.chip.opcClearIrqStatus
              [s.build.chip.irqAll.extractLsb' 8 8, s.build.chip.irqAll.extractLsb' 0 8],
            .write s.build.chip.opcWriteBuffer (0x00 :: Memory.bytes .lpb s.lora.lpb 0 len.toNat),
            .pin .paEnable true,
            .write s.build.chip.opcSetTx
              [s.build.txTimeout.extractLsb' 16 8, s.build.txTimeout.extractLsb' 8 8, s.build.txTimeout.extractLsb' 0 8] ] m ∧
        exec (.lsend len) s =
          .next (({ m with lora.paEnable := true, lora.loraMode := .tx, avail.txOff := false } : State).withRsp
            .ok (len.setWidth 32)))

/-- R275, R278, R279, R116, R120: LSETRX clears the chip's flags, drops PA-enable and asks for receive; LSETFREQ and LSETPWR send
the converted frequency and the power byte, store the operand as given and answer `LLAST`. -/
def Obligations.RadioConfigResult : Prop :=
  ∀ (s : State) (t : BitVec 24) (hz : Word) (level : Byte), s.build.backend = .lora → s.lora.csAsserted = false →
    1 ≤ s.build.maxAttempts →
    (∃ m, DoesBus s
        [ .write s.build.chip.opcClearIrqStatus [s.build.chip.irqAll.extractLsb' 8 8, s.build.chip.irqAll.extractLsb' 0 8],
          .pin .paEnable false,
          .write s.build.chip.opcSetRx [t.extractLsb' 16 8, t.extractLsb' 8 8, t.extractLsb' 0 8] ] m ∧
      exec (.lsetrx t) s =
        .next (({ m with lora.paEnable := false, lora.rxTimeout := t, lora.loraMode := .rx } : State).withRsp .ok 0)) ∧
    (let w : Word := BitVec.ofNat 32 (hz.toNat * 2 ^ s.build.freqShift / s.build.xtalHz)
     ∃ m, DoesBus s
        [.write s.build.chip.opcSetRfFrequency
          [w.extractLsb' 24 8, w.extractLsb' 16 8, w.extractLsb' 8 8, w.extractLsb' 0 8]] m ∧
      exec (.lsetfreq hz) s =
        .next (({ m with lora.cfgFreq := hz } : State).withRsp
          .ok ((m.lora.lastAttempts ++ m.lora.lastStatus).setWidth 32))) ∧
    ∃ pwr m, s.build.pwrTable[min level.toNat 6]? = some pwr ∧
      DoesBus s [.write s.build.chip.opcSetTxParams [pwr, s.build.pwrRamp]] m ∧
      exec (.lsetpwr level) s =
        .next (({ m with lora.cfgPwr := level } : State).withRsp .ok ((m.lora.lastAttempts ++ m.lora.lastStatus).setWidth 32))

/-- R274, R273: LRECV answers 0 after one transaction on a CRC or header error, 0 after two on length 0 or above the caller's
capacity, and else fetches exactly the reported bytes at the reported offset into the buffer. -/
def Obligations.LrecvResult : Prop :=
  ∀ (s : State) (cap : Half), s.build.backend = .lora → s.lora.csAsserted = false →
    let irqRead (h l : Byte) : BusItem := .read s.build.chip.opcGetIrqStatus [] [h, l]
    ∃ h l : Byte,
      ((h ++ l) &&& (s.build.chip.irqCrcErr ||| s.build.chip.irqHeaderErr) ≠ 0 →
        ∃ m, DoesBus s [irqRead h l] m ∧ exec (.lrecv cap) s = .next (m.withRsp .ok 0)) ∧
      ((h ++ l) &&& (s.build.chip.irqCrcErr ||| s.build.chip.irqHeaderErr) = 0 →
        ∃ len off : Byte,
          let lenRead : BusItem := .read s.build.chip.opcGetRxBufferStatus [] [len, off]
          (len = 0 ∨ cap.toNat < len.toNat →
            ∃ m, DoesBus s [irqRead h l, lenRead] m ∧ exec (.lrecv cap) s = .next (m.withRsp .ok 0)) ∧
          (len ≠ 0 → len.toNat ≤ cap.toNat →
            ∃ data m lpb, data.length = len.toNat ∧
              DoesBus s [irqRead h l, lenRead, .read s.build.chip.opcReadBuffer [off] data] m ∧
              Stored .lpb s.lora.lpb 0 data lpb ∧
              exec (.lrecv cap) s =
                .next (({ m with lora.lpb := lpb, lora.lpbLen := len.toNat } : State).withRsp .ok (len.setWidth 32))))

/-- R276, R271, R273: LPOLL reads the chip's interrupt status and makes the transition it calls for: receive done before timeout,
transmit done before timeout, the end of a transmission re-entering receive with the last timeout. -/
def Obligations.LpollResult : Prop :=
  ∀ s : State, s.build.backend = .lora → s.lora.csAsserted = false → 1 ≤ s.build.maxAttempts →
    let c := s.build.chip
    ∃ h l : Byte,
      let irqRead : BusItem := .read c.opcGetIrqStatus [] [h, l]
      let rxDone := (h ++ l) &&& c.irqRxDone ≠ 0
      let txDone := (h ++ l) &&& c.irqTxDone ≠ 0
      let timeout := (h ++ l) &&& c.irqTimeout ≠ 0
      ((s.lora.loraMode = .standby ∨ (s.lora.loraMode = .rx ∧ ¬ rxDone ∧ ¬ timeout) ∨
          (s.lora.loraMode = .tx ∧ ¬ txDone ∧ ¬ timeout)) →
        ∃ m, DoesBus s [irqRead] m ∧ exec .lpoll s = .next (m.withRsp .ok 0)) ∧
      (s.lora.loraMode = .rx → rxDone →
        ∃ m, DoesBus s [irqRead] m ∧
          exec .lpoll s =
            .next (({ m with lora.loraMode := .standby, events.evt := m.events.evt ||| 0x0008 } : State).withRsp .ok 1)) ∧
      (s.lora.loraMode = .rx → ¬ rxDone → timeout →
        ∃ m, DoesBus s [irqRead] m ∧
          exec .lpoll s =
            .next (({ m with lora.loraMode := .standby, events.evt := m.events.evt ||| 0x0010 } : State).withRsp .ok 2)) ∧
      (s.lora.loraMode = .tx → txDone ∨ timeout →
        ∃ m, DoesBus s
            [ irqRead, .pin .paEnable false,
              .write c.opcClearIrqStatus [c.irqAll.extractLsb' 8 8, c.irqAll.extractLsb' 0 8], .pin .paEnable false,
              .write c.opcSetRx
                [s.lora.rxTimeout.extractLsb' 16 8, s.lora.rxTimeout.extractLsb' 8 8, s.lora.rxTimeout.extractLsb' 0 8] ] m ∧
          exec .lpoll s =
            .next (({ m with
                      lora.loraMode := .rx
                      lora.paEnable := false
                      avail.txOff := true
                      events.evt := m.events.evt ||| (if txDone then 0x0020 else 0x0010) } : State).withRsp
              .ok (if txDone then 3 else 2)))

/-! ### Availability contract (47_availability_system.md) -/

/-- R306, R308: REQUIRE counts; in the deferral window it cancels the power-down owed and nothing more; from off, in the AFSK
build, it powers up, samples the squelch into "channel ready" and signals "available". -/
def Obligations.RequireResult : Prop :=
  ∀ s : State,
    (s.avail.useCount ≠ 0 →
      exec .require s =
        .next (({ s with avail.useCount := satAdd s.avail.useCount 1 } : State).withRsp
          .ok ((satAdd s.avail.useCount 1).setWidth 32))) ∧
    (s.avail.useCount = 0 → s.avail.onOff = true →
      exec .require s = .next (({ s with avail.useCount := 1, avail.pdPending := false } : State).withRsp .ok 1)) ∧
    (s.avail.useCount = 0 → s.avail.onOff = false → s.build.backend = .afsk →
      exec .require s =
        .next (({ s with
                  avail.useCount := 1
                  avail.pdPending := false
                  avail.onOff := true
                  avail.available := true
                  avail.channelReady := !s.env.squelchOpen
                  events.evt := s.events.evt ||| 0x0400
                  out.trace := s.out.trace ++ [.pin .radioPwr true] } : State).withRsp .ok 1))

/-- R306, R308, R119: from off, in the LORA build, REQUIRE powers the chip, pulses its reset, waits, and sends the nine bring-up
commands in their order with the configuration registers; "available" is signalled whatever their outcome. -/
def Obligations.RequireBringsUpLora : Prop :=
  ∀ s : State, s.build.backend = .lora → s.avail.useCount = 0 → s.avail.onOff = false → s.lora.csAsserted = false →
    1 ≤ s.build.maxAttempts →
    let c := s.build.chip
    let w : Word := BitVec.ofNat 32 (s.lora.cfgFreq.toNat * 2 ^ s.build.freqShift / s.build.xtalHz)
    ∃ pwr idle m, s.build.pwrTable[min s.lora.cfgPwr.toNat 6]? = some pwr ∧
      DoesBus s
        [ .pin .radioPwr true, .pin .loraRst true, .pin .loraRst false, .wait s.build.pollAttempts idle,
          .write c.opcSetStandby [0x00],
          .write c.opcCalibrate [0x7F],
          .write c.opcSetPacketType [0x01],
          .write c.opcSetRfFrequency [w.extractLsb' 24 8, w.extractLsb' 16 8, w.extractLsb' 8 8, w.extractLsb' 0 8],
          .write c.opcSetTxParams [pwr, s.build.pwrRamp],
          .write c.opcSetModulationParams [s.lora.cfgSf.setWidth 8, s.lora.cfgBw, s.lora.cfgCr.setWidth 8, 0x00],
          .write c.opcSetPacketParams
            [s.lora.pktPreamble.extractLsb' 8 8, s.lora.pktPreamble.extractLsb' 0 8,
              if s.lora.pktFlags.getLsbD 0 then 0x01 else 0x00, 0xFF,
              if s.lora.pktFlags.getLsbD 1 then 0x01 else 0x00, if s.lora.pktFlags.getLsbD 2 then 0x01 else 0x00],
          .write c.opcSetBufferBase [0x00, 0x00],
          .write c.opcSetDioIrqParams
            [c.irqAll.extractLsb' 8 8, c.irqAll.extractLsb' 0 8, 0x00, 0x00, 0x00, 0x00, 0x00, 0x00],
          .pin .paEnable false ] m ∧
      exec .require s =
        .next (({ m with
                  avail.useCount := 1
                  avail.pdPending := false
                  avail.onOff := true
                  avail.available := true
                  avail.channelReady := true
                  lora.loraMode := .standby
                  lora.paEnable := false
                  lora.loraRst := false
                  events.evt := m.events.evt ||| 0x0400 } : State).withRsp .ok 1)

/-- R307: RELEASE counts down to the floor 0 and leaves a power-down owed when it reaches it; it never waits. -/
def Obligations.ReleaseResult : Prop :=
  ∀ s : State,
    (s.avail.useCount = 0 → exec .release s = .next (s.withRsp .ok 0)) ∧
    (s.avail.useCount = 1 →
      exec .release s = .next (({ s with avail.useCount := 0, avail.pdPending := true } : State).withRsp .ok 0)) ∧
    (1 < s.avail.useCount.toNat →
      exec .release s =
        .next (({ s with avail.useCount := s.avail.useCount - 1 } : State).withRsp .ok ((s.avail.useCount - 1).setWidth 32)))

/-- R309, R310: the deferred power-down, taken only while its condition holds (else the scheduled worker takes no step, log entry
8), and the squelch edge, which moves "channel ready" in the AFSK build while available and the input pin it reports (log entry
15). -/
def Obligations.PowerDownAndSquelchResult : Prop :=
  ∀ (s : State) (rest : List Stimulus), s.env.rstN = true →
    let u : State := { s with env.agenda := rest, out := StepOut.none }
    (s.env.agenda = .powerDown :: rest →
      (¬ (s.avail.pdPending = true ∧ s.avail.useCount = 0 ∧ s.avail.txOff = true) → step s = .next u) ∧
      (s.avail.pdPending = true → s.avail.useCount = 0 → s.avail.txOff = true →
        let d : State :=
          { u with
            avail.onOff := false
            avail.available := false
            avail.channelReady := false
            avail.pdPending := false
            events.evt := s.events.evt ||| 0x0200 }
        (s.build.backend = .afsk → step s = .next { d with out.trace := [.pin .radioPwr false] }) ∧
        (s.build.backend = .lora →
          step s =
            .next { d with
                    lora.loraMode := .standby
                    lora.paEnable := false
                    out.trace := [.pin .radioPwr false, .pin .paEnable false] }))) ∧
    ∀ v : Bool, s.env.agenda = .squelchEdge v :: rest →
      (s.build.backend = .afsk → s.avail.available = true →
        step s = .next { u with env.squelchOpen := v, avail.channelReady := !v }) ∧
      (s.build.backend ≠ .afsk ∨ s.avail.available = false → step s = .next { u with env.squelchOpen := v })

/-! ### Rules of the whole block -/

/-- The step is a reset: SRESET, or an edge of `rst_n`. -/
def StepIsReset (s : State) : Prop :=
  ∃ e rest, s.env.agenda = e :: rest ∧
    ((∃ w, e = .command w ∧ decode w = .ok .sreset) ∨ e = .resetLow ∨ e = .resetHigh ∨ ∃ w k, e = .resetDuring w k)

/-- R311: (a) REQUIRE from power off switches the power on; (b) after `k` REQUIREs and as many RELEASEs the count is 0 with the
power still on and a power-down owed; only the power-down worker (and a reset) then switches it off, and not while a transmission is
in flight; (c) RELEASE does not count below 0. -/
def Obligations.AvailabilityProperty : Prop :=
  (∀ s : State, s.avail.useCount = 0 → s.avail.onOff = false → ∃ t, exec .require s = .next t ∧ t.avail.onOff = true) ∧
    (∀ (s : State) (k : Nat), s.avail.useCount = 0 → 1 ≤ k → k ≤ 0xFFFF →
      ∃ t, runOps (List.replicate k .require ++ List.replicate k .release) s = some t ∧ t.avail.useCount = 0 ∧
        t.avail.onOff = true ∧ t.avail.pdPending = true) ∧
    (∀ s t : State, step s = .next t → s.avail.onOff = true → t.avail.onOff = false →
      StepIsReset s ∨
        ((∃ rest, s.env.agenda = .powerDown :: rest) ∧ s.avail.pdPending = true ∧ s.avail.useCount = 0 ∧
          s.avail.txOff = true)) ∧
    ∀ s : State, s.avail.useCount = 0 → ∃ t, exec .release s = .next t ∧ t.avail.useCount = 0

/-- R36, R334: an event flag once set stays set until a reset or an EVCLR whose mask names it. -/
def Obligations.EventFlagsAreSticky : Prop :=
  ∀ (s t : State) (k : Nat), step s = .next t → s.events.evt.getLsbD k = true → t.events.evt.getLsbD k = false →
    StepIsReset s ∨ ∃ w rest m, s.env.agenda = .command w :: rest ∧ decode w = .ok (.evclr m) ∧ m.getLsbD k = true

/-- R28, R170, R188: of all steps only SETMODE and a reset change `clkMode`, and only a tick in TX mode and a reset change the
tone. -/
def Obligations.ModeAndToneWriters : Prop :=
  ∀ s t : State, step s = .next t →
    (t.clk.clkMode ≠ s.clk.clkMode →
      StepIsReset s ∨ ∃ w rest m, s.env.agenda = .command w :: rest ∧ decode w = .ok (.setmode m)) ∧
    (t.tx.toneSel ≠ s.tx.toneSel →
      StepIsReset s ∨
        ((∃ rest, s.env.agenda = .tick :: rest) ∧ s.build.backend = .afsk ∧ s.clk.clkRun = true ∧ s.clk.clkMode = .tx))

/-- R241, R245, R246, R85: the bus trace of every step not cut by `rst_n` is a sequence of brackets: every transfer between a
`CS+` and the next `CS-`, no `CS+` while selected, no poll or pin write inside, and the chip deselected at the end. -/
def Obligations.BusTraceIsBracketed : Prop :=
  ∀ s t : State, step s = .next t → s.lora.csAsserted = false → (∀ w k rest, s.env.agenda ≠ .resetDuring w k :: rest) →
    Bracketed false t.out.trace = true ∧ t.lora.csAsserted = false

/-- R341, R331: an operation that answers a status other than `ST_OK` has changed nothing and answers the value 0, but for AXENC's
`ST_FULL`, which stores the bytes that fitted. -/
def Obligations.RefusalsChangeNothing : Prop :=
  ∀ (i : Instr) (s t : State) (r : Response), exec i s = .next t → t.out.rsp = some r → r.st ≠ .ok →
    (r.val = 0 ∧ t = s.withRsp r.st 0) ∨
      (i = .axenc ∧ r.st = .full ∧
        t = { s with codec.axb := t.codec.axb, codec.axbLen := t.codec.axbLen, out.rsp := some r })

/-- R331: which operations answer `ST_BUSY`, `ST_EMPTY` and `ST_FULL`, and exactly when. -/
def Obligations.RefusalCauses : Prop :=
  ∀ (i : Instr) (s t : State) (r : Response), exec i s = .next t → t.out.rsp = some r →
    (r.st = .busy ↔
      ((i = .rbnext ∨ (∃ v, i = .rbput v) ∨ i = .rblast ∨ ∃ f, i = .capstart f) ∧ s.build.backend = .afsk ∧
        s.ring.rbEnabled = true ∧ (s.cap.capState = .wait ∨ s.cap.capState = .run))) ∧
    (r.st = .empty ↔
      ((i = .strget ∧ s.codec.strLen ≤ s.codec.strRd) ∨ (i = .axbget ∧ s.codec.axbLen ≤ s.codec.axbRd))) ∧
    (r.st = .full → i = .axenc ∨ ((∃ v, i = .txqpush v) ∧ s.tx.txq.length = s.build.txqDepth) ∨
      ((∃ v, i = .strput v) ∧ s.codec.strLen = s.build.strCap) ∨ ((∃ v, i = .axbput v) ∧ s.codec.axbLen = s.build.axbCap) ∨
      ((∃ v, i = .lpbput v) ∧ s.lora.lpbLen = s.build.lpbCap))

/-- R66, R363: the state after reset meets the invariant. Its build and pin levels are the model's (log entries 1, 2, 3). -/
def Obligations.InvAtReset : Prop := Inv State.reset

/-- R22, R24, R27, R29 to R36, R189 (iii), R241: every step of every agent keeps the invariant. -/
def Obligations.StepKeepsInv : Prop :=
  ∀ s t : State, Inv s → step s = .next t → Inv t

end
end

