-- ==== Sys2Proof/Laws/Memory.lean ====
section
/-! SUPPORT. The laws of the sparse memories: what a write changes and leaves alone, that every memory operation keeps the canonical
form `Memory.wf` and the address bound `Memory.Within`, and what a run of writes leaves (`Stored`). -/

namespace Sys2Proof.Machine

section

variable {α : Type}

/-- Read after a write: the written cell holds the value, every other cell reads as before. -/
theorem Memory.read?_write (m : Memory α) (a x : Nat) (v : α) :
    Memory.read? (Memory.write m a v) x = if x = a then some v else Memory.read? m x := by
  induction m with
  | nil => simp [Memory.write, Memory.read?]
  | cons c m ih =>
    obtain ⟨b, w⟩ := c
    simp only [Memory.write]
    split
    · simp [Memory.read?]
    · split
      · subst_vars; simp only [Memory.read?]; split <;> simp_all
      · simp only [Memory.read?, ih]
        split
        · subst_vars; rw [if_neg (by omega)]
        · rfl

@[simp] theorem Memory.wf_nil : Memory.wf ([] : Memory α) = true := rfl

@[simp] theorem Memory.wf_cons_cons (a b : Nat) (v w : α) (m : Memory α) :
    Memory.wf ((a, v) :: (b, w) :: m) = (decide (a < b) && Memory.wf ((b, w) :: m)) := rfl

/-- The head of a canonical memory, replaced by a cell at a lower or equal address, leaves it canonical. -/
theorem Memory.wf_lower {a b : Nat} {v w : α} {m : Memory α} (h : Memory.wf ((b, w) :: m) = true) (hab : a ≤ b) :
    Memory.wf ((a, v) :: m) = true := by
  cases m with
  | nil => rfl
  | cons c m => simp_all [Memory.wf]; omega

theorem Memory.wf_tail {c : Nat × α} {m : Memory α} (h : Memory.wf (c :: m) = true) : Memory.wf m = true := by
  cases m with
  | nil => rfl
  | cons d m => simp_all [Memory.wf]

/-- A write keeps the canonical form. -/
theorem Memory.write_wf (m : Memory α) (a : Nat) (v : α) (h : Memory.wf m = true) : Memory.wf (Memory.write m a v) = true := by
  induction m with
  | nil => rfl
  | cons c m ih =>
    obtain ⟨b, w⟩ := c
    simp only [Memory.write]
    split
    · simp_all [Memory.wf]
    · split
      · exact Memory.wf_lower h (by omega)
      · have := ih (Memory.wf_tail h)
        cases m with
        | nil => simp [Memory.write, Memory.wf]; omega
        | cons d m =>
          obtain ⟨e, y⟩ := d
          simp only [Memory.write] at this ⊢
          simp only [Memory.wf_cons_cons, Bool.and_eq_true, decide_eq_true_eq] at h
          split
          · simp_all [Memory.wf]; omega
          · split <;> simp_all [Memory.wf]

/-- A write inside the bound keeps the bound. -/
theorem Memory.write_within {m : Memory α} {n a : Nat} (v : α) (h : Memory.Within m n) (ha : a < n) :
    Memory.Within (Memory.write m a v) n := by
  induction m with
  | nil => simpa [Memory.write, Memory.Within] using ha
  | cons c m ih =>
    obtain ⟨b, w⟩ := c
    simp only [Memory.write]
    have hm : Memory.Within m n := fun d hd => h d (List.mem_cons_of_mem _ hd)
    have hb : b < n := h (b, w) List.mem_cons_self
    split
    · intro d hd; rcases List.mem_cons.1 hd with rfl | hd
      · exact ha
      · exact h d hd
    · split
      · intro d hd; rcases List.mem_cons.1 hd with rfl | hd
        · exact ha
        · exact hm d hd
      · intro d hd; rcases List.mem_cons.1 hd with rfl | hd
        · exact hb
        · exact ih hm d hd

@[simp] theorem Memory.within_nil (n : Nat) : Memory.Within ([] : Memory α) n := by simp [Memory.Within]

end

/-- Read after a write, of a byte. -/
theorem Memory.byteAt_write (sp : Space) (m : Memory Byte) (a x : Nat) (v : Byte) :
    Memory.byteAt sp (Memory.write m a v) x = if x = a then v else Memory.byteAt sp m x := by
  simp only [Memory.byteAt, Memory.read?_write]; split <;> rfl

/-- Read after a write, of a fragment entry. -/
theorem Memory.fragAt_write (m : Memory AdcSample) (a x : Nat) (v : AdcSample) :
    Memory.fragAt (Memory.write m a v) x = if x = a then v else Memory.fragAt m x := by
  simp only [Memory.fragAt, Memory.read?_write]; split <;> rfl

@[simp] theorem Memory.bytes_length (sp : Space) (m : Memory Byte) (a n : Nat) : (Memory.bytes sp m a n).length = n := by
  induction n generalizing a with
  | zero => rfl
  | succ n ih => simp [Memory.bytes, ih]

/-- Byte `k` of a run of bytes. -/
theorem Memory.bytes_getElem? (sp : Space) (m : Memory Byte) (a n k : Nat) :
    (Memory.bytes sp m a n)[k]? = if k < n then some (Memory.byteAt sp m (a + k)) else none := by
  induction n generalizing a k with
  | zero => simp [Memory.bytes]
  | succ n ih =>
    cases k with
    | zero => simp [Memory.bytes]
    | succ k => simp [Memory.bytes, ih, Nat.add_assoc, Nat.add_comm 1 k]

/-- Read after a run of writes. -/
theorem Memory.byteAt_writeFrom (sp : Space) (m : Memory Byte) (a x : Nat) (vs : List Byte) :
    Memory.byteAt sp (Memory.writeFrom m a vs) x =
      if h : a ≤ x ∧ x < a + vs.length then vs[x - a]'(by omega) else Memory.byteAt sp m x := by
  induction vs generalizing m a with
  | nil => simp only [Memory.writeFrom]; rw [dif_neg (by simp)]
  | cons v vs ih =>
    simp only [Memory.writeFrom, ih, Memory.byteAt_write, List.length_cons]
    by_cases h : x = a
    · subst h; simp
    · by_cases h1 : a + 1 ≤ x ∧ x < a + 1 + vs.length
      · rw [dif_pos h1, dif_pos (by omega)]
        have : x - a = (x - (a + 1)) + 1 := by omega
        simp [this]
      · rw [dif_neg h1, dif_neg (by omega), if_neg h]

theorem Memory.writeFrom_wf (m : Memory Byte) (a : Nat) (vs : List Byte) (h : Memory.wf m = true) :
    Memory.wf (Memory.writeFrom m a vs) = true := by
  induction vs generalizing m a with
  | nil => exact h
  | cons v vs ih => exact ih _ _ (Memory.write_wf m a v h)

theorem Memory.writeFrom_within {m : Memory Byte} {n a : Nat} (vs : List Byte) (h : Memory.Within m n)
    (ha : a + vs.length ≤ n) : Memory.Within (Memory.writeFrom m a vs) n := by
  induction vs generalizing m a with
  | nil => exact h
  | cons v vs ih =>
    simp only [List.length_cons] at ha
    exact ih (Memory.write_within v h (by omega)) (by omega)

/-- A run of writes stores exactly its bytes. -/
theorem stored_writeFrom (sp : Space) (m : Memory Byte) (a : Nat) (vs : List Byte) :
    Stored sp m a vs (Memory.writeFrom m a vs) := by
  constructor
  · apply List.ext_getElem?
    intro k
    rw [Memory.bytes_getElem?]
    split
    · rename_i hk
      rw [Memory.byteAt_writeFrom, dif_pos (by omega)]
      simp [hk]
    · rename_i hk; simp at hk; simp [hk]
  · intro x hx
    rw [Memory.byteAt_writeFrom, dif_neg (by omega)]

/-- One write stores exactly its byte. -/
theorem stored_write (sp : Space) (m : Memory Byte) (a : Nat) (v : Byte) : Stored sp m a [v] (Memory.write m a v) :=
  stored_writeFrom sp m a [v]

/-- The first bytes written read back as the list. -/
theorem Memory.bytes_writeFrom (sp : Space) (m : Memory Byte) (a : Nat) (vs : List Byte) :
    Memory.bytes sp (Memory.writeFrom m a vs) a vs.length = vs := (stored_writeFrom sp m a vs).1

/-- Equal bytes give equal runs of bytes. -/
theorem Memory.bytes_congr {sp : Space} {m m' : Memory Byte} {a n : Nat}
    (h : ∀ x, a ≤ x → x < a + n → Memory.byteAt sp m x = Memory.byteAt sp m' x) :
    Memory.bytes sp m a n = Memory.bytes sp m' a n := by
  induction n generalizing a with
  | zero => rfl
  | succ n ih =>
    simp only [Memory.bytes]
    rw [h a (by omega) (by omega), ih fun x h1 h2 => h x (by omega) (by omega)]

end Sys2Proof.Machine
end

