-- ==== Sys2Proof/Laws/State.lean ====
section
/-! SUPPORT. The small lemmas of the named state updates: what each does to every field it touches and that it leaves the others
alone. All hold by `rfl`; later proofs cite them through `simp` and unfold no record update. -/

namespace Sys2Proof.Machine

/-! ### `State.withRsp` -/

@[simp] theorem State.withRsp_build (s : State) (st : Status) (v : Word) : (s.withRsp st v).build = s.build := rfl
@[simp] theorem State.withRsp_ring (s : State) (st : Status) (v : Word) : (s.withRsp st v).ring = s.ring := rfl
@[simp] theorem State.withRsp_cap (s : State) (st : Status) (v : Word) : (s.withRsp st v).cap = s.cap := rfl
@[simp] theorem State.withRsp_clk (s : State) (st : Status) (v : Word) : (s.withRsp st v).clk = s.clk := rfl
@[simp] theorem State.withRsp_tx (s : State) (st : Status) (v : Word) : (s.withRsp st v).tx = s.tx := rfl
@[simp] theorem State.withRsp_codec (s : State) (st : Status) (v : Word) : (s.withRsp st v).codec = s.codec := rfl
@[simp] theorem State.withRsp_lora (s : State) (st : Status) (v : Word) : (s.withRsp st v).lora = s.lora := rfl
@[simp] theorem State.withRsp_avail (s : State) (st : Status) (v : Word) : (s.withRsp st v).avail = s.avail := rfl
@[simp] theorem State.withRsp_events (s : State) (st : Status) (v : Word) : (s.withRsp st v).events = s.events := rfl
@[simp] theorem State.withRsp_env (s : State) (st : Status) (v : Word) : (s.withRsp st v).env = s.env := rfl
@[simp] theorem State.withRsp_out_rsp (s : State) (st : Status) (v : Word) : (s.withRsp st v).out.rsp = some ⟨st, v⟩ := rfl
@[simp] theorem State.withRsp_out_detSample (s : State) (st : Status) (v : Word) : (s.withRsp st v).out.detSample = s.out.detSample := rfl
@[simp] theorem State.withRsp_out_trace (s : State) (st : Status) (v : Word) : (s.withRsp st v).out.trace = s.out.trace := rfl

/-! ### `State.logEvent` -/

@[simp] theorem State.logEvent_build (s : State) (e : BusEvent) : (s.logEvent e).build = s.build := rfl
@[simp] theorem State.logEvent_ring (s : State) (e : BusEvent) : (s.logEvent e).ring = s.ring := rfl
@[simp] theorem State.logEvent_cap (s : State) (e : BusEvent) : (s.logEvent e).cap = s.cap := rfl
@[simp] theorem State.logEvent_clk (s : State) (e : BusEvent) : (s.logEvent e).clk = s.clk := rfl
@[simp] theorem State.logEvent_tx (s : State) (e : BusEvent) : (s.logEvent e).tx = s.tx := rfl
@[simp] theorem State.logEvent_codec (s : State) (e : BusEvent) : (s.logEvent e).codec = s.codec := rfl
@[simp] theorem State.logEvent_lora (s : State) (e : BusEvent) : (s.logEvent e).lora = s.lora := rfl
@[simp] theorem State.logEvent_avail (s : State) (e : BusEvent) : (s.logEvent e).avail = s.avail := rfl
@[simp] theorem State.logEvent_events (s : State) (e : BusEvent) : (s.logEvent e).events = s.events := rfl
@[simp] theorem State.logEvent_env (s : State) (e : BusEvent) : (s.logEvent e).env = s.env := rfl
@[simp] theorem State.logEvent_out_rsp (s : State) (e : BusEvent) : (s.logEvent e).out.rsp = s.out.rsp := rfl
@[simp] theorem State.logEvent_out_detSample (s : State) (e : BusEvent) : (s.logEvent e).out.detSample = s.out.detSample := rfl
@[simp] theorem State.logEvent_out_trace (s : State) (e : BusEvent) : (s.logEvent e).out.trace = s.out.trace ++ [e] := rfl

/-! ### `selectChip` -/

@[simp] theorem selectChip_build (s : State) : (selectChip s).build = s.build := rfl
@[simp] theorem selectChip_ring (s : State) : (selectChip s).ring = s.ring := rfl
@[simp] theorem selectChip_cap (s : State) : (selectChip s).cap = s.cap := rfl
@[simp] theorem selectChip_clk (s : State) : (selectChip s).clk = s.clk := rfl
@[simp] theorem selectChip_tx (s : State) : (selectChip s).tx = s.tx := rfl
@[simp] theorem selectChip_codec (s : State) : (selectChip s).codec = s.codec := rfl
@[simp] theorem selectChip_lora_loraMode (s : State) : (selectChip s).lora.loraMode = s.lora.loraMode := rfl
@[simp] theorem selectChip_lora_csAsserted (s : State) : (selectChip s).lora.csAsserted = true := rfl
@[simp] theorem selectChip_lora_paEnable (s : State) : (selectChip s).lora.paEnable = s.lora.paEnable := rfl
@[simp] theorem selectChip_lora_loraRst (s : State) : (selectChip s).lora.loraRst = s.lora.loraRst := rfl
@[simp] theorem selectChip_lora_busyTimeout (s : State) : (selectChip s).lora.busyTimeout = s.lora.busyTimeout := rfl
@[simp] theorem selectChip_lora_pktPreamble (s : State) : (selectChip s).lora.pktPreamble = s.lora.pktPreamble := rfl
@[simp] theorem selectChip_lora_pktFlags (s : State) : (selectChip s).lora.pktFlags = s.lora.pktFlags := rfl
@[simp] theorem selectChip_lora_lastStatus (s : State) : (selectChip s).lora.lastStatus = s.lora.lastStatus := rfl
@[simp] theorem selectChip_lora_lastAttempts (s : State) : (selectChip s).lora.lastAttempts = s.lora.lastAttempts := rfl
@[simp] theorem selectChip_lora_rxTimeout (s : State) : (selectChip s).lora.rxTimeout = s.lora.rxTimeout := rfl
@[simp] theorem selectChip_lora_lpb (s : State) : (selectChip s).lora.lpb = s.lora.lpb := rfl
@[simp] theorem selectChip_lora_lpbLen (s : State) : (selectChip s).lora.lpbLen = s.lora.lpbLen := rfl
@[simp] theorem selectChip_lora_cfgFreq (s : State) : (selectChip s).lora.cfgFreq = s.lora.cfgFreq := rfl
@[simp] theorem selectChip_lora_cfgSf (s : State) : (selectChip s).lora.cfgSf = s.lora.cfgSf := rfl
@[simp] theorem selectChip_lora_cfgCr (s : State) : (selectChip s).lora.cfgCr = s.lora.cfgCr := rfl
@[simp] theorem selectChip_lora_cfgBw (s : State) : (selectChip s).lora.cfgBw = s.lora.cfgBw := rfl
@[simp] theorem selectChip_lora_cfgPwr (s : State) : (selectChip s).lora.cfgPwr = s.lora.cfgPwr := rfl
@[simp] theorem selectChip_avail (s : State) : (selectChip s).avail = s.avail := rfl
@[simp] theorem selectChip_events (s : State) : (selectChip s).events = s.events := rfl
@[simp] theorem selectChip_env (s : State) : (selectChip s).env = s.env := rfl
@[simp] theorem selectChip_out_rsp (s : State) : (selectChip s).out.rsp = s.out.rsp := rfl
@[simp] theorem selectChip_out_detSample (s : State) : (selectChip s).out.detSample = s.out.detSample := rfl
@[simp] theorem selectChip_out_trace (s : State) : (selectChip s).out.trace = s.out.trace ++ [.select] := rfl

/-! ### `deselectChip` -/

@[simp] theorem deselectChip_build (s : State) : (deselectChip s).build = s.build := rfl
@[simp] theorem deselectChip_ring (s : State) : (deselectChip s).ring = s.ring := rfl
@[simp] theorem deselectChip_cap (s : State) : (deselectChip s).cap = s.cap := rfl
@[simp] theorem deselectChip_clk (s : State) : (deselectChip s).clk = s.clk := rfl
@[simp] theorem deselectChip_tx (s : State) : (deselectChip s).tx = s.tx := rfl
@[simp] theorem deselectChip_codec (s : State) : (deselectChip s).codec = s.codec := rfl
@[simp] theorem deselectChip_lora_loraMode (s : State) : (deselectChip s).lora.loraMode = s.lora.loraMode := rfl
@[simp] theorem deselectChip_lora_csAsserted (s : State) : (deselectChip s).lora.csAsserted = false := rfl
@[simp] theorem deselectChip_lora_paEnable (s : State) : (deselectChip s).lora.paEnable = s.lora.paEnable := rfl
@[simp] theorem deselectChip_lora_loraRst (s : State) : (deselectChip s).lora.loraRst = s.lora.loraRst := rfl
@[simp] theorem deselectChip_lora_busyTimeout (s : State) : (deselectChip s).lora.busyTimeout = s.lora.busyTimeout := rfl
@[simp] theorem deselectChip_lora_pktPreamble (s : State) : (deselectChip s).lora.pktPreamble = s.lora.pktPreamble := rfl
@[simp] theorem deselectChip_lora_pktFlags (s : State) : (deselectChip s).lora.pktFlags = s.lora.pktFlags := rfl
@[simp] theorem deselectChip_lora_lastStatus (s : State) : (deselectChip s).lora.lastStatus = s.lora.lastStatus := rfl
@[simp] theorem deselectChip_lora_lastAttempts (s : State) : (deselectChip s).lora.lastAttempts = s.lora.lastAttempts := rfl
@[simp] theorem deselectChip_lora_rxTimeout (s : State) : (deselectChip s).lora.rxTimeout = s.lora.rxTimeout := rfl
@[simp] theorem deselectChip_lora_lpb (s : State) : (deselectChip s).lora.lpb = s.lora.lpb := rfl
@[simp] theorem deselectChip_lora_lpbLen (s : State) : (deselectChip s).lora.lpbLen = s.lora.lpbLen := rfl
@[simp] theorem deselectChip_lora_cfgFreq (s : State) : (deselectChip s).lora.cfgFreq = s.lora.cfgFreq := rfl
@[simp] theorem deselectChip_lora_cfgSf (s : State) : (deselectChip s).lora.cfgSf = s.lora.cfgSf := rfl
@[simp] theorem deselectChip_lora_cfgCr (s : State) : (deselectChip s).lora.cfgCr = s.lora.cfgCr := rfl
@[simp] theorem deselectChip_lora_cfgBw (s : State) : (deselectChip s).lora.cfgBw = s.lora.cfgBw := rfl
@[simp] theorem deselectChip_lora_cfgPwr (s : State) : (deselectChip s).lora.cfgPwr = s.lora.cfgPwr := rfl
@[simp] theorem deselectChip_avail (s : State) : (deselectChip s).avail = s.avail := rfl
@[simp] theorem deselectChip_events (s : State) : (deselectChip s).events = s.events := rfl
@[simp] theorem deselectChip_env (s : State) : (deselectChip s).env = s.env := rfl
@[simp] theorem deselectChip_out_rsp (s : State) : (deselectChip s).out.rsp = s.out.rsp := rfl
@[simp] theorem deselectChip_out_detSample (s : State) : (deselectChip s).out.detSample = s.out.detSample := rfl
@[simp] theorem deselectChip_out_trace (s : State) : (deselectChip s).out.trace = s.out.trace ++ [.deselect] := rfl

/-! ### `setPaEnable` -/

@[simp] theorem setPaEnable_build (v : Bool) (s : State) : (setPaEnable v s).build = s.build := rfl
@[simp] theorem setPaEnable_ring (v : Bool) (s : State) : (setPaEnable v s).ring = s.ring := rfl
@[simp] theorem setPaEnable_cap (v : Bool) (s : State) : (setPaEnable v s).cap = s.cap := rfl
@[simp] theorem setPaEnable_clk (v : Bool) (s : State) : (setPaEnable v s).clk = s.clk := rfl
@[simp] theorem setPaEnable_tx (v : Bool) (s : State) : (setPaEnable v s).tx = s.tx := rfl
@[simp] theorem setPaEnable_codec (v : Bool) (s : State) : (setPaEnable v s).codec = s.codec := rfl
@[simp] theorem setPaEnable_lora_loraMode (v : Bool) (s : State) : (setPaEnable v s).lora.loraMode = s.lora.loraMode := rfl
@[simp] theorem setPaEnable_lora_csAsserted (v : Bool) (s : State) : (setPaEnable v s).lora.csAsserted = s.lora.csAsserted := rfl
@[simp] theorem setPaEnable_lora_paEnable (v : Bool) (s : State) : (setPaEnable v s).lora.paEnable = v := rfl
@[simp] theorem setPaEnable_lora_loraRst (v : Bool) (s : State) : (setPaEnable v s).lora.loraRst = s.lora.loraRst := rfl
@[simp] theorem setPaEnable_lora_busyTimeout (v : Bool) (s : State) : (setPaEnable v s).lora.busyTimeout = s.lora.busyTimeout := rfl
@[simp] theorem setPaEnable_lora_pktPreamble (v : Bool) (s : State) : (setPaEnable v s).lora.pktPreamble = s.lora.pktPreamble := rfl
@[simp] theorem setPaEnable_lora_pktFlags (v : Bool) (s : State) : (setPaEnable v s).lora.pktFlags = s.lora.pktFlags := rfl
@[simp] theorem setPaEnable_lora_lastStatus (v : Bool) (s : State) : (setPaEnable v s).lora.lastStatus = s.lora.lastStatus := rfl
@[simp] theorem setPaEnable_lora_lastAttempts (v : Bool) (s : State) : (setPaEnable v s).lora.lastAttempts = s.lora.lastAttempts := rfl
@[simp] theorem setPaEnable_lora_rxTimeout (v : Bool) (s : State) : (setPaEnable v s).lora.rxTimeout = s.lora.rxTimeout := rfl
@[simp] theorem setPaEnable_lora_lpb (v : Bool) (s : State) : (setPaEnable v s).lora.lpb = s.lora.lpb := rfl
@[simp] theorem setPaEnable_lora_lpbLen (v : Bool) (s : State) : (setPaEnable v s).lora.lpbLen = s.lora.lpbLen := rfl
@[simp] theorem setPaEnable_lora_cfgFreq (v : Bool) (s : State) : (setPaEnable v s).lora.cfgFreq = s.lora.cfgFreq := rfl
@[simp] theorem setPaEnable_lora_cfgSf (v : Bool) (s : State) : (setPaEnable v s).lora.cfgSf = s.lora.cfgSf := rfl
@[simp] theorem setPaEnable_lora_cfgCr (v : Bool) (s : State) : (setPaEnable v s).lora.cfgCr = s.lora.cfgCr := rfl
@[simp] theorem setPaEnable_lora_cfgBw (v : Bool) (s : State) : (setPaEnable v s).lora.cfgBw = s.lora.cfgBw := rfl
@[simp] theorem setPaEnable_lora_cfgPwr (v : Bool) (s : State) : (setPaEnable v s).lora.cfgPwr = s.lora.cfgPwr := rfl
@[simp] theorem setPaEnable_avail (v : Bool) (s : State) : (setPaEnable v s).avail = s.avail := rfl
@[simp] theorem setPaEnable_events (v : Bool) (s : State) : (setPaEnable v s).events = s.events := rfl
@[simp] theorem setPaEnable_env (v : Bool) (s : State) : (setPaEnable v s).env = s.env := rfl
@[simp] theorem setPaEnable_out_rsp (v : Bool) (s : State) : (setPaEnable v s).out.rsp = s.out.rsp := rfl
@[simp] theorem setPaEnable_out_detSample (v : Bool) (s : State) : (setPaEnable v s).out.detSample = s.out.detSample := rfl
@[simp] theorem setPaEnable_out_trace (v : Bool) (s : State) : (setPaEnable v s).out.trace = s.out.trace ++ [.pin .paEnable v] := rfl

/-! ### `setLoraRst` -/

@[simp] theorem setLoraRst_build (v : Bool) (s : State) : (setLoraRst v s).build = s.build := rfl
@[simp] theorem setLoraRst_ring (v : Bool) (s : State) : (setLoraRst v s).ring = s.ring := rfl
@[simp] theorem setLoraRst_cap (v : Bool) (s : State) : (setLoraRst v s).cap = s.cap := rfl
@[simp] theorem setLoraRst_clk (v : Bool) (s : State) : (setLoraRst v s).clk = s.clk := rfl
@[simp] theorem setLoraRst_tx (v : Bool) (s : State) : (setLoraRst v s).tx = s.tx := rfl
@[simp] theorem setLoraRst_codec (v : Bool) (s : State) : (setLoraRst v s).codec = s.codec := rfl
@[simp] theorem setLoraRst_lora_loraMode (v : Bool) (s : State) : (setLoraRst v s).lora.loraMode = s.lora.loraMode := rfl
@[simp] theorem setLoraRst_lora_csAsserted (v : Bool) (s : State) : (setLoraRst v s).lora.csAsserted = s.lora.csAsserted := rfl
@[simp] theorem setLoraRst_lora_paEnable (v : Bool) (s : State) : (setLoraRst v s).lora.paEnable = s.lora.paEnable := rfl
@[simp] theorem setLoraRst_lora_loraRst (v : Bool) (s : State) : (setLoraRst v s).lora.loraRst = v := rfl
@[simp] theorem setLoraRst_lora_busyTimeout (v : Bool) (s : State) : (setLoraRst v s).lora.busyTimeout = s.lora.busyTimeout := rfl
@[simp] theorem setLoraRst_lora_pktPreamble (v : Bool) (s : State) : (setLoraRst v s).lora.pktPreamble = s.lora.pktPreamble := rfl
@[simp] theorem setLoraRst_lora_pktFlags (v : Bool) (s : State) : (setLoraRst v s).lora.pktFlags = s.lora.pktFlags := rfl
@[simp] theorem setLoraRst_lora_lastStatus (v : Bool) (s : State) : (setLoraRst v s).lora.lastStatus = s.lora.lastStatus := rfl
@[simp] theorem setLoraRst_lora_lastAttempts (v : Bool) (s : State) : (setLoraRst v s).lora.lastAttempts = s.lora.lastAttempts := rfl
@[simp] theorem setLoraRst_lora_rxTimeout (v : Bool) (s : State) : (setLoraRst v s).lora.rxTimeout = s.lora.rxTimeout := rfl
@[simp] theorem setLoraRst_lora_lpb (v : Bool) (s : State) : (setLoraRst v s).lora.lpb = s.lora.lpb := rfl
@[simp] theorem setLoraRst_lora_lpbLen (v : Bool) (s : State) : (setLoraRst v s).lora.lpbLen = s.lora.lpbLen := rfl
@[simp] theorem setLoraRst_lora_cfgFreq (v : Bool) (s : State) : (setLoraRst v s).lora.cfgFreq = s.lora.cfgFreq := rfl
@[simp] theorem setLoraRst_lora_cfgSf (v : Bool) (s : State) : (setLoraRst v s).lora.cfgSf = s.lora.cfgSf := rfl
@[simp] theorem setLoraRst_lora_cfgCr (v : Bool) (s : State) : (setLoraRst v s).lora.cfgCr = s.lora.cfgCr := rfl
@[simp] theorem setLoraRst_lora_cfgBw (v : Bool) (s : State) : (setLoraRst v s).lora.cfgBw = s.lora.cfgBw := rfl
@[simp] theorem setLoraRst_lora_cfgPwr (v : Bool) (s : State) : (setLoraRst v s).lora.cfgPwr = s.lora.cfgPwr := rfl
@[simp] theorem setLoraRst_avail (v : Bool) (s : State) : (setLoraRst v s).avail = s.avail := rfl
@[simp] theorem setLoraRst_events (v : Bool) (s : State) : (setLoraRst v s).events = s.events := rfl
@[simp] theorem setLoraRst_env (v : Bool) (s : State) : (setLoraRst v s).env = s.env := rfl
@[simp] theorem setLoraRst_out_rsp (v : Bool) (s : State) : (setLoraRst v s).out.rsp = s.out.rsp := rfl
@[simp] theorem setLoraRst_out_detSample (v : Bool) (s : State) : (setLoraRst v s).out.detSample = s.out.detSample := rfl
@[simp] theorem setLoraRst_out_trace (v : Bool) (s : State) : (setLoraRst v s).out.trace = s.out.trace ++ [.pin .loraRst v] := rfl

/-! ### `setOnOff` -/

@[simp] theorem setOnOff_build (v : Bool) (s : State) : (setOnOff v s).build = s.build := rfl
@[simp] theorem setOnOff_ring (v : Bool) (s : State) : (setOnOff v s).ring = s.ring := rfl
@[simp] theorem setOnOff_cap (v : Bool) (s : State) : (setOnOff v s).cap = s.cap := rfl
@[simp] theorem setOnOff_clk (v : Bool) (s : State) : (setOnOff v s).clk = s.clk := rfl
@[simp] theorem setOnOff_tx (v : Bool) (s : State) : (setOnOff v s).tx = s.tx := rfl
@[simp] theorem setOnOff_codec (v : Bool) (s : State) : (setOnOff v s).codec = s.codec := rfl
@[simp] theorem setOnOff_lora (v : Bool) (s : State) : (setOnOff v s).lora = s.lora := rfl
@[simp] theorem setOnOff_avail_onOff (v : Bool) (s : State) : (setOnOff v s).avail.onOff = v := rfl
@[simp] theorem setOnOff_avail_useCount (v : Bool) (s : State) : (setOnOff v s).avail.useCount = s.avail.useCount := rfl
@[simp] theorem setOnOff_avail_available (v : Bool) (s : State) : (setOnOff v s).avail.available = s.avail.available := rfl
@[simp] theorem setOnOff_avail_channelReady (v : Bool) (s : State) : (setOnOff v s).avail.channelReady = s.avail.channelReady := rfl
@[simp] theorem setOnOff_avail_txOff (v : Bool) (s : State) : (setOnOff v s).avail.txOff = s.avail.txOff := rfl
@[simp] theorem setOnOff_avail_pdPending (v : Bool) (s : State) : (setOnOff v s).avail.pdPending = s.avail.pdPending := rfl
@[simp] theorem setOnOff_events (v : Bool) (s : State) : (setOnOff v s).events = s.events := rfl
@[simp] theorem setOnOff_env (v : Bool) (s : State) : (setOnOff v s).env = s.env := rfl
@[simp] theorem setOnOff_out_rsp (v : Bool) (s : State) : (setOnOff v s).out.rsp = s.out.rsp := rfl
@[simp] theorem setOnOff_out_detSample (v : Bool) (s : State) : (setOnOff v s).out.detSample = s.out.detSample := rfl
@[simp] theorem setOnOff_out_trace (v : Bool) (s : State) : (setOnOff v s).out.trace = s.out.trace ++ [.pin .radioPwr v] := rfl

/-! ### `raiseEvt` -/

@[simp] theorem raiseEvt_build (f : EvtFlag) (s : State) : (raiseEvt f s).build = s.build := rfl
@[simp] theorem raiseEvt_ring (f : EvtFlag) (s : State) : (raiseEvt f s).ring = s.ring := rfl
@[simp] theorem raiseEvt_cap (f : EvtFlag) (s : State) : (raiseEvt f s).cap = s.cap := rfl
@[simp] theorem raiseEvt_clk (f : EvtFlag) (s : State) : (raiseEvt f s).clk = s.clk := rfl
@[simp] theorem raiseEvt_tx (f : EvtFlag) (s : State) : (raiseEvt f s).tx = s.tx := rfl
@[simp] theorem raiseEvt_codec (f : EvtFlag) (s : State) : (raiseEvt f s).codec = s.codec := rfl
@[simp] theorem raiseEvt_lora (f : EvtFlag) (s : State) : (raiseEvt f s).lora = s.lora := rfl
@[simp] theorem raiseEvt_avail (f : EvtFlag) (s : State) : (raiseEvt f s).avail = s.avail := rfl
@[simp] theorem raiseEvt_events_evt (f : EvtFlag) (s : State) : (raiseEvt f s).events.evt = s.events.evt ||| f.mask := rfl
@[simp] theorem raiseEvt_events_evmask (f : EvtFlag) (s : State) : (raiseEvt f s).events.evmask = s.events.evmask := rfl
@[simp] theorem raiseEvt_events_logWarn (f : EvtFlag) (s : State) : (raiseEvt f s).events.logWarn = s.events.logWarn := rfl
@[simp] theorem raiseEvt_events_logFail (f : EvtFlag) (s : State) : (raiseEvt f s).events.logFail = s.events.logFail := rfl
@[simp] theorem raiseEvt_events_sqlLevel (f : EvtFlag) (s : State) : (raiseEvt f s).events.sqlLevel = s.events.sqlLevel := rfl
@[simp] theorem raiseEvt_env (f : EvtFlag) (s : State) : (raiseEvt f s).env = s.env := rfl
@[simp] theorem raiseEvt_out (f : EvtFlag) (s : State) : (raiseEvt f s).out = s.out := rfl

/-! ### `nextFrame` -/

@[simp] theorem nextFrame_build (s : State) : (nextFrame s).build = s.build := rfl
@[simp] theorem nextFrame_ring_readCursor (s : State) : (nextFrame s).ring.readCursor = s.ring.readCursor := rfl
@[simp] theorem nextFrame_ring_writeCursor (s : State) : (nextFrame s).ring.writeCursor = s.ring.writeCursor := rfl
@[simp] theorem nextFrame_ring_committedFrameStart (s : State) : (nextFrame s).ring.committedFrameStart = s.ring.committedFrameStart := rfl
@[simp] theorem nextFrame_ring_committedFrameLength (s : State) : (nextFrame s).ring.committedFrameLength = s.ring.committedFrameLength := rfl
@[simp] theorem nextFrame_ring_provisionalFrameStart (s : State) : (nextFrame s).ring.provisionalFrameStart = s.ring.writeCursor := rfl
@[simp] theorem nextFrame_ring_provisionalFrameLength (s : State) : (nextFrame s).ring.provisionalFrameLength = 0 := rfl
@[simp] theorem nextFrame_ring_buf (s : State) : (nextFrame s).ring.buf = s.ring.buf := rfl
@[simp] theorem nextFrame_ring_rbEnabled (s : State) : (nextFrame s).ring.rbEnabled = s.ring.rbEnabled := rfl
@[simp] theorem nextFrame_cap (s : State) : (nextFrame s).cap = s.cap := rfl
@[simp] theorem nextFrame_clk (s : State) : (nextFrame s).clk = s.clk := rfl
@[simp] theorem nextFrame_tx (s : State) : (nextFrame s).tx = s.tx := rfl
@[simp] theorem nextFrame_codec (s : State) : (nextFrame s).codec = s.codec := rfl
@[simp] theorem nextFrame_lora (s : State) : (nextFrame s).lora = s.lora := rfl
@[simp] theorem nextFrame_avail (s : State) : (nextFrame s).avail = s.avail := rfl
@[simp] theorem nextFrame_events (s : State) : (nextFrame s).events = s.events := rfl
@[simp] theorem nextFrame_env (s : State) : (nextFrame s).env = s.env := rfl
@[simp] theorem nextFrame_out (s : State) : (nextFrame s).out = s.out := rfl

/-! ### `State.setAddr` -/

@[simp] theorem State.setAddr_build (s : State) (i : Nat) (A : Ax25Address) : (s.setAddr i A).build = s.build := rfl
@[simp] theorem State.setAddr_ring (s : State) (i : Nat) (A : Ax25Address) : (s.setAddr i A).ring = s.ring := rfl
@[simp] theorem State.setAddr_cap (s : State) (i : Nat) (A : Ax25Address) : (s.setAddr i A).cap = s.cap := rfl
@[simp] theorem State.setAddr_clk (s : State) (i : Nat) (A : Ax25Address) : (s.setAddr i A).clk = s.clk := rfl
@[simp] theorem State.setAddr_tx (s : State) (i : Nat) (A : Ax25Address) : (s.setAddr i A).tx = s.tx := rfl
@[simp] theorem State.setAddr_codec_addr (s : State) (i : Nat) (A : Ax25Address) : (s.setAddr i A).codec.addr = s.codec.addr.setIfInBounds i A := rfl
@[simp] theorem State.setAddr_codec_axNdigi (s : State) (i : Nat) (A : Ax25Address) : (s.setAddr i A).codec.axNdigi = s.codec.axNdigi := rfl
@[simp] theorem State.setAddr_codec_axCtrl (s : State) (i : Nat) (A : Ax25Address) : (s.setAddr i A).codec.axCtrl = s.codec.axCtrl := rfl
@[simp] theorem State.setAddr_codec_axPid (s : State) (i : Nat) (A : Ax25Address) : (s.setAddr i A).codec.axPid = s.codec.axPid := rfl
@[simp] theorem State.setAddr_codec_axb (s : State) (i : Nat) (A : Ax25Address) : (s.setAddr i A).codec.axb = s.codec.axb := rfl
@[simp] theorem State.setAddr_codec_axbLen (s : State) (i : Nat) (A : Ax25Address) : (s.setAddr i A).codec.axbLen = s.codec.axbLen := rfl
@[simp] theorem State.setAddr_codec_axbRd (s : State) (i : Nat) (A : Ax25Address) : (s.setAddr i A).codec.axbRd = s.codec.axbRd := rfl
@[simp] theorem State.setAddr_codec_strb (s : State) (i : Nat) (A : Ax25Address) : (s.setAddr i A).codec.strb = s.codec.strb := rfl
@[simp] theorem State.setAddr_codec_strLen (s : State) (i : Nat) (A : Ax25Address) : (s.setAddr i A).codec.strLen = s.codec.strLen := rfl
@[simp] theorem State.setAddr_codec_strRd (s : State) (i : Nat) (A : Ax25Address) : (s.setAddr i A).codec.strRd = s.codec.strRd := rfl
@[simp] theorem State.setAddr_lora (s : State) (i : Nat) (A : Ax25Address) : (s.setAddr i A).lora = s.lora := rfl
@[simp] theorem State.setAddr_avail (s : State) (i : Nat) (A : Ax25Address) : (s.setAddr i A).avail = s.avail := rfl
@[simp] theorem State.setAddr_events (s : State) (i : Nat) (A : Ax25Address) : (s.setAddr i A).events = s.events := rfl
@[simp] theorem State.setAddr_env (s : State) (i : Nat) (A : Ax25Address) : (s.setAddr i A).env = s.env := rfl
@[simp] theorem State.setAddr_out (s : State) (i : Nat) (A : Ax25Address) : (s.setAddr i A).out = s.out := rfl

/-! ### `storeString` -/

@[simp] theorem storeString_build (l : List Byte) (s : State) : (storeString l s).build = s.build := rfl
@[simp] theorem storeString_ring (l : List Byte) (s : State) : (storeString l s).ring = s.ring := rfl
@[simp] theorem storeString_cap (l : List Byte) (s : State) : (storeString l s).cap = s.cap := rfl
@[simp] theorem storeString_clk (l : List Byte) (s : State) : (storeString l s).clk = s.clk := rfl
@[simp] theorem storeString_tx (l : List Byte) (s : State) : (storeString l s).tx = s.tx := rfl
@[simp] theorem storeString_codec_addr (l : List Byte) (s : State) : (storeString l s).codec.addr = s.codec.addr := rfl
@[simp] theorem storeString_codec_axNdigi (l : List Byte) (s : State) : (storeString l s).codec.axNdigi = s.codec.axNdigi := rfl
@[simp] theorem storeString_codec_axCtrl (l : List Byte) (s : State) : (storeString l s).codec.axCtrl = s.codec.axCtrl := rfl
@[simp] theorem storeString_codec_axPid (l : List Byte) (s : State) : (storeString l s).codec.axPid = s.codec.axPid := rfl
@[simp] theorem storeString_codec_axb (l : List Byte) (s : State) : (storeString l s).codec.axb = s.codec.axb := rfl
@[simp] theorem storeString_codec_axbLen (l : List Byte) (s : State) : (storeString l s).codec.axbLen = s.codec.axbLen := rfl
@[simp] theorem storeString_codec_axbRd (l : List Byte) (s : State) : (storeString l s).codec.axbRd = s.codec.axbRd := rfl
@[simp] theorem storeString_codec_strb (l : List Byte) (s : State) : (storeString l s).codec.strb = Memory.writeFrom s.codec.strb 0 l := rfl
@[simp] theorem storeString_codec_strLen (l : List Byte) (s : State) : (storeString l s).codec.strLen = l.length := rfl
@[simp] theorem storeString_codec_strRd (l : List Byte) (s : State) : (storeString l s).codec.strRd = 0 := rfl
@[simp] theorem storeString_lora (l : List Byte) (s : State) : (storeString l s).lora = s.lora := rfl
@[simp] theorem storeString_avail (l : List Byte) (s : State) : (storeString l s).avail = s.avail := rfl
@[simp] theorem storeString_events (l : List Byte) (s : State) : (storeString l s).events = s.events := rfl
@[simp] theorem storeString_env (l : List Byte) (s : State) : (storeString l s).env = s.env := rfl
@[simp] theorem storeString_out (l : List Byte) (s : State) : (storeString l s).out = s.out := rfl

/-! ### `storeLpb` -/

@[simp] theorem storeLpb_build (l : List Byte) (s : State) : (storeLpb l s).build = s.build := rfl
@[simp] theorem storeLpb_ring (l : List Byte) (s : State) : (storeLpb l s).ring = s.ring := rfl
@[simp] theorem storeLpb_cap (l : List Byte) (s : State) : (storeLpb l s).cap = s.cap := rfl
@[simp] theorem storeLpb_clk (l : List Byte) (s : State) : (storeLpb l s).clk = s.clk := rfl
@[simp] theorem storeLpb_tx (l : List Byte) (s : State) : (storeLpb l s).tx = s.tx := rfl
@[simp] theorem storeLpb_codec (l : List Byte) (s : State) : (storeLpb l s).codec = s.codec := rfl
@[simp] theorem storeLpb_lora_loraMode (l : List Byte) (s : State) : (storeLpb l s).lora.loraMode = s.lora.loraMode := rfl
@[simp] theorem storeLpb_lora_csAsserted (l : List Byte) (s : State) : (storeLpb l s).lora.csAsserted = s.lora.csAsserted := rfl
@[simp] theorem storeLpb_lora_paEnable (l : List Byte) (s : State) : (storeLpb l s).lora.paEnable = s.lora.paEnable := rfl
@[simp] theorem storeLpb_lora_loraRst (l : List Byte) (s : State) : (storeLpb l s).lora.loraRst = s.lora.loraRst := rfl
@[simp] theorem storeLpb_lora_busyTimeout (l : List Byte) (s : State) : (storeLpb l s).lora.busyTimeout = s.lora.busyTimeout := rfl
@[simp] theorem storeLpb_lora_pktPreamble (l : List Byte) (s : State) : (storeLpb l s).lora.pktPreamble = s.lora.pktPreamble := rfl
@[simp] theorem storeLpb_lora_pktFlags (l : List Byte) (s : State) : (storeLpb l s).lora.pktFlags = s.lora.pktFlags := rfl
@[simp] theorem storeLpb_lora_lastStatus (l : List Byte) (s : State) : (storeLpb l s).lora.lastStatus = s.lora.lastStatus := rfl
@[simp] theorem storeLpb_lora_lastAttempts (l : List Byte) (s : State) : (storeLpb l s).lora.lastAttempts = s.lora.lastAttempts := rfl
@[simp] theorem storeLpb_lora_rxTimeout (l : List Byte) (s : State) : (storeLpb l s).lora.rxTimeout = s.lora.rxTimeout := rfl
@[simp] theorem storeLpb_lora_lpb (l : List Byte) (s : State) : (storeLpb l s).lora.lpb = Memory.writeFrom s.lora.lpb 0 l := rfl
@[simp] theorem storeLpb_lora_lpbLen (l : List Byte) (s : State) : (storeLpb l s).lora.lpbLen = l.length := rfl
@[simp] theorem storeLpb_lora_cfgFreq (l : List Byte) (s : State) : (storeLpb l s).lora.cfgFreq = s.lora.cfgFreq := rfl
@[simp] theorem storeLpb_lora_cfgSf (l : List Byte) (s : State) : (storeLpb l s).lora.cfgSf = s.lora.cfgSf := rfl
@[simp] theorem storeLpb_lora_cfgCr (l : List Byte) (s : State) : (storeLpb l s).lora.cfgCr = s.lora.cfgCr := rfl
@[simp] theorem storeLpb_lora_cfgBw (l : List Byte) (s : State) : (storeLpb l s).lora.cfgBw = s.lora.cfgBw := rfl
@[simp] theorem storeLpb_lora_cfgPwr (l : List Byte) (s : State) : (storeLpb l s).lora.cfgPwr = s.lora.cfgPwr := rfl
@[simp] theorem storeLpb_avail (l : List Byte) (s : State) : (storeLpb l s).avail = s.avail := rfl
@[simp] theorem storeLpb_events (l : List Byte) (s : State) : (storeLpb l s).events = s.events := rfl
@[simp] theorem storeLpb_env (l : List Byte) (s : State) : (storeLpb l s).env = s.env := rfl
@[simp] theorem storeLpb_out (l : List Byte) (s : State) : (storeLpb l s).out = s.out := rfl

/-! ### `State.begin` -/

@[simp] theorem State.begin_build (s : State) (r : List Stimulus) : (s.begin r).build = s.build := rfl
@[simp] theorem State.begin_ring (s : State) (r : List Stimulus) : (s.begin r).ring = s.ring := rfl
@[simp] theorem State.begin_cap (s : State) (r : List Stimulus) : (s.begin r).cap = s.cap := rfl
@[simp] theorem State.begin_clk (s : State) (r : List Stimulus) : (s.begin r).clk = s.clk := rfl
@[simp] theorem State.begin_tx (s : State) (r : List Stimulus) : (s.begin r).tx = s.tx := rfl
@[simp] theorem State.begin_codec (s : State) (r : List Stimulus) : (s.begin r).codec = s.codec := rfl
@[simp] theorem State.begin_lora (s : State) (r : List Stimulus) : (s.begin r).lora = s.lora := rfl
@[simp] theorem State.begin_avail (s : State) (r : List Stimulus) : (s.begin r).avail = s.avail := rfl
@[simp] theorem State.begin_events (s : State) (r : List Stimulus) : (s.begin r).events = s.events := rfl
@[simp] theorem State.begin_env_agenda (s : State) (r : List Stimulus) : (s.begin r).env.agenda = r := rfl
@[simp] theorem State.begin_env_rstN (s : State) (r : List Stimulus) : (s.begin r).env.rstN = s.env.rstN := rfl
@[simp] theorem State.begin_env_squelchOpen (s : State) (r : List Stimulus) : (s.begin r).env.squelchOpen = s.env.squelchOpen := rfl
@[simp] theorem State.begin_env_rbAllocOk (s : State) (r : List Stimulus) : (s.begin r).env.rbAllocOk = s.env.rbAllocOk := rfl
@[simp] theorem State.begin_env_adc (s : State) (r : List Stimulus) : (s.begin r).env.adc = s.env.adc := rfl
@[simp] theorem State.begin_env_det (s : State) (r : List Stimulus) : (s.begin r).env.det = s.env.det := rfl
@[simp] theorem State.begin_env_busy (s : State) (r : List Stimulus) : (s.begin r).env.busy = s.env.busy := rfl
@[simp] theorem State.begin_env_busIn (s : State) (r : List Stimulus) : (s.begin r).env.busIn = s.env.busIn := rfl
@[simp] theorem State.begin_env_freeReads (s : State) (r : List Stimulus) : (s.begin r).env.freeReads = s.env.freeReads := rfl
@[simp] theorem State.begin_out_rsp (s : State) (r : List Stimulus) : (s.begin r).out.rsp = none := rfl
@[simp] theorem State.begin_out_detSample (s : State) (r : List Stimulus) : (s.begin r).out.detSample = none := rfl
@[simp] theorem State.begin_out_trace (s : State) (r : List Stimulus) : (s.begin r).out.trace = [] := rfl

end Sys2Proof.Machine
end

