-- ==== Sys2Proof/Laws/Bus.lean ====
section
/-! SUPPORT. What each procedure of the LoRa sequencer can do, said once: it leaves `State.afterBus` of a trace of the grammar of
Safety.lean, whose polls and returned bytes are the inputs' answers (45_lora_primitives.md R241 to R247). -/

namespace Sys2Proof.Machine

/-! ### Inputs -/

theorem takeBusy_eq (s : State) : takeBusy s = (s.env.nextBusy.1, { s with env := s.env.nextBusy.2 }) := by
  unfold takeBusy Env.nextBusy; split <;> rename_i h <;> simp [h]

theorem takeBusIn_eq (s : State) : takeBusIn s = (s.env.nextByte.1, { s with env := s.env.nextByte.2 }) := by
  unfold takeBusIn Env.nextByte; split <;> rename_i h <;> simp [h]

theorem takeDet_eq (s : State) : takeDet s = (s.env.nextDet.1, { s with env := s.env.nextDet.2 }) := by
  unfold takeDet Env.nextDet; split <;> rename_i h <;> simp [h]

theorem takeAdc_eq (s : State) : takeAdc s = (s.env.nextAdc.1, { s with env := s.env.nextAdc.2 }) := by
  unfold takeAdc Env.nextAdc; split <;> rename_i h <;> simp [h]

/-- What is left of the inputs after a trace is what is left after its parts, one after the other. -/
theorem Replay.append {tr tr' : List BusEvent} {e e₁ e₂ : Env} (h : Replay tr e e₁) (h' : Replay tr' e₁ e₂) :
    Replay (tr ++ tr') e e₂ := by
  induction tr generalizing e with
  | nil => cases h; exact h'
  | cons ev tr ih =>
    cases ev with
    | poll v => exact ⟨h.1, ih h.2⟩
    | xfer o i => exact ⟨h.1, ih h.2⟩
    | select => exact ih (e := e) h
    | deselect => exact ih (e := e) h
    | pin p v => exact ih (e := e) h

/-! ### Tallies and the state after bus work -/

theorem satAdd_satAdd {w : Nat} (x : BitVec w) (m n : Nat) : satAdd (satAdd x m) n = satAdd x (m + n) := by
  have hw : 0 < 2 ^ w := Nat.two_pow_pos w
  unfold satAdd
  rw [BitVec.toNat_ofNat, Nat.mod_eq_of_lt (by omega)]
  congr 1
  omega

@[simp] theorem satAdd_zero {w : Nat} (x : BitVec w) : satAdd x 0 = x := by
  have := x.isLt
  apply BitVec.eq_of_toNat_eq
  rw [satAdd, BitVec.toNat_ofNat, Nat.mod_eq_of_lt (by omega)]
  omega

theorem satInc_eq {w : Nat} (x : BitVec w) : satInc x = satAdd x 1 := by
  have h := x.isLt
  apply BitVec.eq_of_toNat_eq
  rw [satAdd, BitVec.toNat_ofNat, Nat.mod_eq_of_lt (by omega), satInc]
  split
  · rename_i hx; rw [hx, BitVec.toNat_allOnes]; omega
  · rename_i hx
    have hx' : x.toNat ≠ 2 ^ w - 1 := fun hc => hx (BitVec.eq_of_toNat_eq (by rw [BitVec.toNat_allOnes]; exact hc))
    rw [BitVec.toNat_add]
    rcases Nat.eq_zero_or_pos w with rfl | hw
    · simp at *; omega
    · have : (1 : BitVec w).toNat = 1 := BitVec.toNat_one hw
      rw [this, Nat.mod_eq_of_lt (by omega)]; omega

@[simp] theorem Tally.zero_seq (y : Tally) : Tally.zero.seq y = y := by simp [Tally.seq, Tally.zero]
@[simp] theorem Tally.seq_zero (y : Tally) : y.seq Tally.zero = y := by simp [Tally.seq, Tally.zero]

theorem Tally.seq_assoc (x y z : Tally) : (x.seq y).seq z = x.seq (y.seq z) := by
  simp only [Tally.seq, Nat.add_assoc, Option.or_assoc]

theorem Tally.events_seq (y z : Tally) (e : Events) : z.events (y.events e) = (y.seq z).events e := by
  simp only [Tally.events, Tally.seq, satAdd_satAdd]
  congr 1
  by_cases h₁ : y.warns = 0 <;> by_cases h₂ : y.fails = 0 <;> by_cases h₃ : z.warns = 0 <;> by_cases h₄ : z.fails = 0 <;>
    simp [h₁, h₂, h₃, h₄, BitVec.or_assoc]

theorem Tally.lora_seq (y z : Tally) (l : Lora) : z.lora (y.lora l) = (y.seq z).lora l := by
  obtain ⟨_, _, a⟩ := y; obtain ⟨_, _, b⟩ := z
  cases a <;> cases b <;> rfl

@[simp] theorem Tally.zero_events (e : Events) : Tally.zero.events e = e := by simp [Tally.events, Tally.zero]
@[simp] theorem Tally.zero_lora (l : Lora) : Tally.zero.lora l = l := rfl

theorem State.afterBus_afterBus (s : State) (tr tr' : List BusEvent) (y y' : Tally) (e e' : Env) :
    (s.afterBus tr y e).afterBus tr' y' e' = s.afterBus (tr ++ tr') (y.seq y') e' := by
  simp [State.afterBus, Tally.events_seq, Tally.lora_seq, List.append_assoc]

theorem State.afterBus_nil (s : State) : s.afterBus [] Tally.zero s.env = s := by simp [State.afterBus]

@[simp] theorem State.afterBus_build (s : State) (tr y e) : (s.afterBus tr y e).build = s.build := rfl
@[simp] theorem State.afterBus_ring (s : State) (tr y e) : (s.afterBus tr y e).ring = s.ring := rfl
@[simp] theorem State.afterBus_cap (s : State) (tr y e) : (s.afterBus tr y e).cap = s.cap := rfl
@[simp] theorem State.afterBus_clk (s : State) (tr y e) : (s.afterBus tr y e).clk = s.clk := rfl
@[simp] theorem State.afterBus_tx (s : State) (tr y e) : (s.afterBus tr y e).tx = s.tx := rfl
@[simp] theorem State.afterBus_codec (s : State) (tr y e) : (s.afterBus tr y e).codec = s.codec := rfl
@[simp] theorem State.afterBus_avail (s : State) (tr y e) : (s.afterBus tr y e).avail = s.avail := rfl
@[simp] theorem State.afterBus_env (s : State) (tr y e) : (s.afterBus tr y e).env = e := rfl
@[simp] theorem State.afterBus_rsp (s : State) (tr y e) : (s.afterBus tr y e).out.rsp = s.out.rsp := rfl
@[simp] theorem State.afterBus_trace (s : State) (tr y e) : (s.afterBus tr y e).out.trace = s.out.trace ++ tr := rfl

@[simp] theorem Tally.lora_busyTimeout (y : Tally) (l : Lora) : (y.lora l).busyTimeout = l.busyTimeout := by
  unfold Tally.lora; split <;> rfl
@[simp] theorem Tally.lora_csAsserted (y : Tally) (l : Lora) : (y.lora l).csAsserted = l.csAsserted := by
  unfold Tally.lora; split <;> rfl
@[simp] theorem Tally.lora_loraMode (y : Tally) (l : Lora) : (y.lora l).loraMode = l.loraMode := by
  unfold Tally.lora; split <;> rfl
@[simp] theorem Tally.lora_paEnable (y : Tally) (l : Lora) : (y.lora l).paEnable = l.paEnable := by
  unfold Tally.lora; split <;> rfl
@[simp] theorem Tally.lora_loraRst (y : Tally) (l : Lora) : (y.lora l).loraRst = l.loraRst := by
  unfold Tally.lora; split <;> rfl
@[simp] theorem Tally.lora_lpb (y : Tally) (l : Lora) : (y.lora l).lpb = l.lpb := by
  unfold Tally.lora; split <;> rfl
@[simp] theorem Tally.lora_lpbLen (y : Tally) (l : Lora) : (y.lora l).lpbLen = l.lpbLen := by
  unfold Tally.lora; split <;> rfl

@[simp] theorem State.afterBus_lora (s : State) (tr y e) : (s.afterBus tr y e).lora = y.lora s.lora := rfl
@[simp] theorem State.afterBus_events (s : State) (tr y e) : (s.afterBus tr y e).events = y.events s.events := rfl

theorem logWarning_eq (s : State) : logWarning s = s.afterBus [] (Tally.ofWarnings 1) s.env := by
  simp [logWarning, raiseEvt, State.afterBus, Tally.events, Tally.ofWarnings, Tally.lora, satInc_eq, EvtFlag.mask, EvtFlag.bit]
  rfl

theorem logFailure_eq (s : State) : logFailure s = s.afterBus [] { warns := 0, fails := 1, last := none } s.env := by
  simp [logFailure, raiseEvt, State.afterBus, Tally.events, Tally.lora, satInc_eq, EvtFlag.mask, EvtFlag.bit]
  rfl

/-! ### The waits -/

theorem pollBusy_eq (s : State) :
    pollBusy s = (s.env.nextBusy.1, s.afterBus [.poll s.env.nextBusy.1] Tally.zero s.env.nextBusy.2) := by
  simp [pollBusy, takeBusy_eq, State.logEvent, State.afterBus]

/-- `WaitBusy(T)` (R243): the polls of a bounded wait, one warning when it is exhausted. -/
theorem waitBusy_spec (T : Nat) (s : State) :
    ∃ tr e, BusyWait T (waitBusy T s).1 tr ∧ Replay tr s.env e ∧
      (waitBusy T s).2 = s.afterBus tr (Tally.ofWarnings (missed (waitBusy T s).1)) e := by
  induction T generalizing s with
  | zero => exact ⟨[], s.env, by simp [waitBusy, BusyWait], rfl, logWarning_eq s⟩
  | succ T ih =>
    simp only [waitBusy, pollBusy_eq]
    by_cases hv : s.env.nextBusy.1 = true
    · obtain ⟨tr, e, hw, hr, he⟩ := ih (s.afterBus [.poll s.env.nextBusy.1] Tally.zero s.env.nextBusy.2)
      simp only [hv, if_true] at hw hr he ⊢
      refine ⟨.poll true :: tr, e, ?_, ⟨hv.symm, hr⟩, ?_⟩
      · unfold BusyWait at hw ⊢
        split
        · rename_i hi
          rw [if_pos hi] at hw
          obtain ⟨j, hj, rfl⟩ := hw
          exact ⟨j + 1, by omega, by simp [List.replicate_succ]⟩
        · rename_i hi
          rw [if_neg hi] at hw
          rw [hw, List.replicate_succ]
      · rw [he, State.afterBus_afterBus]; simp
    · simp only [Bool.not_eq_true] at hv
      rw [hv]
      simp only [Bool.false_eq_true, if_false]
      exact ⟨[.poll false], s.env.nextBusy.2, ⟨0, by omega, rfl⟩, ⟨hv.symm, rfl⟩, rfl⟩

/-! ### Transfers -/

theorem busXfer_eq (o : Byte) (s : State) :
    busXfer o s = (s.env.nextByte.1, s.afterBus [.xfer o s.env.nextByte.1] Tally.zero s.env.nextByte.2) := by
  simp [busXfer, takeBusIn_eq, State.logEvent, State.afterBus]

/-- The payload of one attempt (R245). -/
theorem sendPayload_spec (pay : List Byte) (s : State) :
    ∃ tr e, PayloadTrace s.build.chip pay tr (sendPayload pay s).1 ∧ Replay tr s.env e ∧
      (sendPayload pay s).2 = s.afterBus tr Tally.zero e := by
  induction pay generalizing s with
  | nil => exact ⟨[], s.env, .done, rfl, (State.afterBus_nil s).symm⟩
  | cons o pay ih =>
    simp only [sendPayload, busXfer_eq, State.afterBus_build]
    by_cases hi : inspect s.build.chip s.env.nextByte.1 = .ok
    · obtain ⟨tr, e, ht, hr, he⟩ := ih (s.afterBus [.xfer o s.env.nextByte.1] Tally.zero s.env.nextByte.2)
      simp only [hi]
      exact ⟨_, e, .good hi ht, ⟨rfl, hr⟩, by rw [he, State.afterBus_afterBus]; rfl⟩
    · refine ⟨[.xfer o s.env.nextByte.1], s.env.nextByte.2, ?_, ⟨rfl, rfl⟩, ?_⟩
      · have : PayloadTrace s.build.chip (o :: pay) [.xfer o s.env.nextByte.1] (inspect s.build.chip s.env.nextByte.1) := .bad hi
        split
        · contradiction
        · exact this
      · split
        · contradiction
        · rfl

/-- Transfers whose answers are discarded (R246). -/
theorem sendAll_spec (outs : List Byte) (s : State) :
    ∃ tr e, Drives outs tr ∧ Replay tr s.env e ∧ sendAll outs s = s.afterBus tr Tally.zero e := by
  induction outs generalizing s with
  | nil => exact ⟨[], s.env, ⟨[], rfl, rfl⟩, rfl, (State.afterBus_nil s).symm⟩
  | cons o outs ih =>
    obtain ⟨tr, e, ⟨ins, hl, rfl⟩, hr, he⟩ := ih (s.afterBus [.xfer o s.env.nextByte.1] Tally.zero s.env.nextByte.2)
    refine ⟨_, e, ⟨s.env.nextByte.1 :: ins, by simp [hl], rfl⟩, ⟨rfl, hr⟩, ?_⟩
    simp only [sendAll, busXfer_eq]
    rw [he, State.afterBus_afterBus]; rfl

/-- The data of a read (R246). -/
theorem readBytes_spec (o : Byte) (n : Nat) (s : State) :
    ∃ e, (readBytes o n s).1.length = n ∧ Replay ((readBytes o n s).1.map (BusEvent.xfer o)) s.env e ∧
      (readBytes o n s).2 = s.afterBus ((readBytes o n s).1.map (BusEvent.xfer o)) Tally.zero e := by
  induction n generalizing s with
  | zero => exact ⟨s.env, rfl, rfl, (State.afterBus_nil s).symm⟩
  | succ n ih =>
    obtain ⟨e, hl, hr, he⟩ := ih (s.afterBus [.xfer o s.env.nextByte.1] Tally.zero s.env.nextByte.2)
    simp only [readBytes, busXfer_eq]
    exact ⟨e, by simpa using hl, ⟨rfl, hr⟩, by rw [he, State.afterBus_afterBus]; rfl⟩

theorem selectChip_afterBus (s : State) :
    selectChip s = { s with lora.csAsserted := true }.afterBus [.select] Tally.zero s.env := by
  simp [selectChip, State.logEvent, State.afterBus]

/-! ### Transactions -/

/-- Chip-select up and down around bus work that leaves the command registers: the level returns to 0. -/
theorem bracket_afterBus (s : State) (hs : s.lora.csAsserted = false) (w tr : List BusEvent) (y : Tally) (hy : y.last = none)
    (e e' : Env) :
    deselectChip ((selectChip (s.afterBus w y e)).afterBus tr Tally.zero e')
      = s.afterBus (w ++ [.select] ++ tr ++ [.deselect]) y e' := by
  have hl : y.lora s.lora = s.lora := by simp [Tally.lora, hy]
  obtain ⟨_, _, _, _, _, _, l, _, _, _, _⟩ := s
  simp only at hs hl
  simp [deselectChip, selectChip, State.logEvent, State.afterBus, hl]
  cases l; simp_all

/-- `WriteAttempt` (R245). -/
theorem writeAttempt_spec (opc : Byte) (pay : List Byte) (s : State) (hs : s.lora.csAsserted = false) :
    ∃ tr w e, AttemptTrace s.build.chip s.lora.busyTimeout.toNat opc pay tr (writeAttempt opc pay s).1 w ∧ Replay tr s.env e ∧
      (writeAttempt opc pay s).2 = s.afterBus tr (Tally.ofWarnings w) e := by
  obtain ⟨w₁, e₁, hw₁, hr₁, he₁⟩ := waitBusy_spec s.lora.busyTimeout.toNat s
  simp only [writeAttempt, waitBusySingle, busXfer_eq]
  rw [he₁]
  generalize hB : (waitBusy s.lora.busyTimeout.toNat s).1 = i₁ at *
  set m := selectChip (s.afterBus w₁ (Tally.ofWarnings (missed i₁)) e₁) with hm
  obtain ⟨tr, e₂, ht, hr₂, he₂⟩ := sendPayload_spec pay (m.afterBus [.xfer opc m.env.nextByte.1] Tally.zero m.env.nextByte.2)
  rw [he₂, State.afterBus_afterBus, Tally.seq_zero, hm, bracket_afterBus s hs _ _ _ rfl, ← hm]
  obtain ⟨w₂, e₃, hw₂, hr₃, he₃⟩ := waitBusy_spec s.lora.busyTimeout.toNat
    (s.afterBus (w₁ ++ [.select] ++ ([.xfer opc m.env.nextByte.1] ++ tr) ++ [.deselect]) (Tally.ofWarnings (missed i₁)) e₂)
  simp only [State.afterBus_lora, Tally.lora_busyTimeout]
  rw [he₃, State.afterBus_afterBus]
  refine ⟨_, _, e₃, .mk (r := m.env.nextByte.1) hw₁ ht hw₂, ?_, ?_⟩
  · have hsel : Replay ([.select, .xfer opc m.env.nextByte.1] : List BusEvent) e₁ m.env.nextByte.2 := ⟨rfl, rfl⟩
    have hd : Replay ([.deselect] : List BusEvent) e₂ e₂ := rfl
    exact (((hr₁.append hsel).append hr₂).append hd).append hr₃
  · simp [Tally.seq, Tally.ofWarnings]

theorem retryLoop_spec (opc : Byte) (pay : List Byte) (left k : Nat) (s : State) (hs : s.lora.csAsserted = false) :
    ∃ tr n w e, CommandTrace s.build.chip s.lora.busyTimeout.toNat opc pay (left + 1) tr (retryLoop opc pay left k s).1 n w ∧
      Replay tr s.env e ∧ (retryLoop opc pay left k s).2.1 + 1 = k + n ∧
      (retryLoop opc pay left k s).2.2 = s.afterBus tr (Tally.ofWarnings w) e := by
  induction left generalizing k s with
  | zero =>
    obtain ⟨tr, w, e, ht, hr, he⟩ := writeAttempt_spec opc pay s hs
    unfold retryLoop
    dsimp only
    by_cases hok : (writeAttempt opc pay s).1 = .ok
    · rw [if_pos hok]
      exact ⟨tr, 1, w, e, .success (hok ▸ ht), hr, rfl, he⟩
    · rw [if_neg hok]
      refine ⟨tr, 1, w + 1, e, .abandoned ht hok, hr, rfl, ?_⟩
      rw [he, logWarning_eq, State.afterBus_env, State.afterBus_afterBus]; simp [Tally.seq, Tally.ofWarnings]
  | succ left ih =>
    obtain ⟨tr, w, e, ht, hr, he⟩ := writeAttempt_spec opc pay s hs
    unfold retryLoop
    dsimp only
    by_cases hok : (writeAttempt opc pay s).1 = .ok
    · rw [if_pos hok]
      exact ⟨tr, 1, w, e, .success (hok ▸ ht), hr, rfl, he⟩
    · rw [if_neg hok, he, logWarning_eq, State.afterBus_env, State.afterBus_afterBus]
      obtain ⟨tr', n, w', e', ht', hr', hk', he'⟩ :=
        ih (k + 1) (s.afterBus (tr ++ []) ((Tally.ofWarnings w).seq (Tally.ofWarnings 1)) e) (by simpa using hs)
      simp only [State.afterBus_lora, Tally.lora_busyTimeout, State.afterBus_build] at ht'
      refine ⟨tr ++ tr', n + 1, w + 1 + w', e', .again ht hok ht', hr.append hr', by omega, ?_⟩
      rw [he', State.afterBus_afterBus]; simp [Tally.seq, Tally.ofWarnings]

/-- `WriteCommand` (R247). -/
theorem writeCommand_spec (opc : Byte) (pay : List Byte) (s : State) (hs : s.lora.csAsserted = false)
    (hm : 1 ≤ s.build.maxAttempts) :
    ∃ tr st k w e, CommandTrace s.build.chip s.lora.busyTimeout.toNat opc pay s.build.maxAttempts tr st k w ∧
      Replay tr s.env e ∧ writeCommand opc pay s = s.afterBus tr (Tally.ofCommand st k w) e := by
  obtain ⟨tr, n, w, e, ht, hr, hk, he⟩ := retryLoop_spec opc pay (s.build.maxAttempts - 1) 1 s hs
  rw [Nat.sub_add_cancel hm] at ht
  refine ⟨tr, _, n, w, e, ht, hr, ?_⟩
  have hk' : (retryLoop opc pay (s.build.maxAttempts - 1) 1 s).2.1 = n := by omega
  simp only [writeCommand, he, hk']
  by_cases hok : (retryLoop opc pay (s.build.maxAttempts - 1) 1 s).1 = .ok
  · rw [if_pos hok]
    simp [State.afterBus, Tally.ofCommand, hok, Tally.ofWarnings, Tally.lora, Tally.events]
    try rfl
  · rw [if_neg hok, logFailure_eq]
    simp [State.afterBus, Tally.ofCommand, hok, Tally.ofWarnings, Tally.lora, Tally.events]
    try rfl

/-- `ReadTransaction` (R246). -/
theorem readTransaction_spec (opc : Byte) (pre : List Byte) (n : Nat) (s : State) (hs : s.lora.csAsserted = false) :
    ∃ tr w e, (readTransaction opc pre n s).1.length = n ∧
      (∀ items tr' y, BusTrace s.build s.lora.busyTimeout.toNat items tr' y →
        BusTrace s.build s.lora.busyTimeout.toNat (.read opc pre (readTransaction opc pre n s).1 :: items) (tr ++ tr')
          ((Tally.ofWarnings w).seq y)) ∧
      Replay tr s.env e ∧ (readTransaction opc pre n s).2 = s.afterBus tr (Tally.ofWarnings w) e := by
  obtain ⟨w₁, e₁, hw₁, hr₁, he₁⟩ := waitBusy_spec s.lora.busyTimeout.toNat s
  simp only [readTransaction, waitBusySingle, busXfer_eq]
  rw [he₁]
  generalize hB : (waitBusy s.lora.busyTimeout.toNat s).1 = i₁ at *
  set m := selectChip (s.afterBus w₁ (Tally.ofWarnings (missed i₁)) e₁) with hm
  set q := m.afterBus [.xfer opc m.env.nextByte.1] Tally.zero m.env.nextByte.2 with hq
  obtain ⟨t₁, e₂, ⟨in₁, hl₁, rfl⟩, hr₂, he₂⟩ := sendAll_spec pre q
  have hb : (sendAll pre q).build = s.build := by rw [he₂]; rfl
  rw [hb]
  obtain ⟨t₂, e₃, ⟨in₂, hl₂, rfl⟩, hr₃, he₃⟩ :=
    sendAll_spec (List.replicate s.build.chip.readSkip s.build.chip.nopByte) (sendAll pre q)
  rw [he₂] at hr₃ he₃
  rw [he₂, he₃, hq, State.afterBus_afterBus, State.afterBus_afterBus, ← List.append_assoc]
  simp only [State.afterBus_build, Tally.seq_zero]
  have hmb : m.build = s.build := rfl
  rw [hmb]
  obtain ⟨e₄, hl, hr₄, he₄⟩ := readBytes_spec s.build.chip.nopByte n
    (m.afterBus ([.xfer opc m.env.nextByte.1] ++ List.zipWith BusEvent.xfer pre in₁ ++
      List.zipWith BusEvent.xfer (List.replicate s.build.chip.readSkip s.build.chip.nopByte) in₂)
      Tally.zero e₃)
  set d := (readBytes s.build.chip.nopByte n
    (m.afterBus ([.xfer opc m.env.nextByte.1] ++ List.zipWith BusEvent.xfer pre in₁ ++
      List.zipWith BusEvent.xfer (List.replicate s.build.chip.readSkip s.build.chip.nopByte) in₂)
      Tally.zero e₃)).1 with hd
  rw [he₄, State.afterBus_afterBus]
  rw [Tally.seq_zero, hm, bracket_afterBus s hs _ _ _ rfl, ← hm]
  obtain ⟨w₂, e₅, hw₂, hr₅, he₅⟩ := waitBusy_spec s.lora.busyTimeout.toNat
    (s.afterBus (w₁ ++ [.select] ++ ([.xfer opc m.env.nextByte.1] ++ List.zipWith BusEvent.xfer pre in₁ ++
      List.zipWith BusEvent.xfer (List.replicate s.build.chip.readSkip s.build.chip.nopByte) in₂
      ++ d.map (BusEvent.xfer s.build.chip.nopByte)) ++ [.deselect]) (Tally.ofWarnings (missed i₁)) e₄)
  simp only [State.afterBus_lora, Tally.lora_busyTimeout]
  rw [he₅, State.afterBus_afterBus]
  refine ⟨w₁ ++ [.select] ++ ([.xfer opc m.env.nextByte.1] ++ List.zipWith BusEvent.xfer pre in₁ ++
      List.zipWith BusEvent.xfer (List.replicate s.build.chip.readSkip s.build.chip.nopByte) in₂
      ++ d.map (BusEvent.xfer s.build.chip.nopByte)) ++ [.deselect] ++ w₂,
    missed i₁ + missed (waitBusy s.lora.busyTimeout.toNat
    (s.afterBus (w₁ ++ [.select] ++ ([.xfer opc m.env.nextByte.1] ++ List.zipWith BusEvent.xfer pre in₁ ++
      List.zipWith BusEvent.xfer (List.replicate s.build.chip.readSkip s.build.chip.nopByte) in₂
      ++ d.map (BusEvent.xfer s.build.chip.nopByte)) ++ [.deselect]) (Tally.ofWarnings (missed i₁)) e₄)).1, e₅, hl, ?_, ?_, ?_⟩
  rotate_left
  rotate_left
  · simp only [Tally.seq, Tally.ofWarnings, Nat.add_zero, Option.or_none]
  · intro items tr' y hi
    have hdr : Drives (opc :: pre ++ List.replicate s.build.chip.readSkip s.build.chip.nopByte)
        ([.xfer opc m.env.nextByte.1] ++ List.zipWith BusEvent.xfer pre in₁ ++
          List.zipWith BusEvent.xfer (List.replicate s.build.chip.readSkip s.build.chip.nopByte) in₂) :=
      ⟨m.env.nextByte.1 :: (in₁ ++ in₂), by simp_all, by
        simp [List.zipWith_append hl₁.symm]⟩
    have := BusTrace.read (data := d) hw₁ hdr hw₂ hi
    simpa [List.append_assoc] using this
  · have hsel : Replay ([.select, .xfer opc m.env.nextByte.1] : List BusEvent) e₁ m.env.nextByte.2 := ⟨rfl, rfl⟩
    have hds : Replay ([.deselect] : List BusEvent) e₄ e₄ := rfl
    have := (((((hr₁.append hsel).append hr₂).append hr₃).append hr₄).append hds).append hr₅
    simpa [List.append_assoc] using this

/-! ### The same as `DoesBus` -/

/-- Bus work one after the other. -/
theorem BusTrace.append {b : Build} {T : Nat} {is is' : List BusItem} {tr tr' : List BusEvent} {y y' : Tally}
    (h : BusTrace b T is tr y) (h' : BusTrace b T is' tr' y') : BusTrace b T (is ++ is') (tr ++ tr') (y.seq y') := by
  induction h with
  | nil => simpa using h'
  | write hc _ ih => rw [List.append_assoc, Tally.seq_assoc]; exact .write hc ih
  | read h₁ hd h₂ _ ih => rw [List.append_assoc, Tally.seq_assoc]; exact .read h₁ hd h₂ ih
  | wait hw _ ih => rw [List.append_assoc, Tally.seq_assoc]; exact .wait hw ih
  | pin _ ih => exact .pin ih

theorem DoesBus.trans {s m t : State} {is is' : List BusItem} (h : DoesBus s is m) (h' : DoesBus m is' t) :
    DoesBus s (is ++ is') t := by
  obtain ⟨tr, y, e, hb, hr, rfl⟩ := h
  obtain ⟨tr', y', e', hb', hr', rfl⟩ := h'
  simp only [State.afterBus_build, State.afterBus_lora, Tally.lora_busyTimeout] at hb'
  exact ⟨tr ++ tr', y.seq y', e', hb.append hb', hr.append hr', (State.afterBus_afterBus ..)⟩

theorem doesBus_write (opc : Byte) (pay : List Byte) (s : State) (hs : s.lora.csAsserted = false) (hm : 1 ≤ s.build.maxAttempts) :
    DoesBus s [.write opc pay] (writeCommand opc pay s) := by
  obtain ⟨tr, st, k, w, e, hc, hr, he⟩ := writeCommand_spec opc pay s hs hm
  have := BusTrace.write hc (.nil (T := s.lora.busyTimeout.toNat))
  rw [List.append_nil, Tally.seq_zero] at this
  exact ⟨tr, _, e, this, hr, he⟩

theorem doesBus_read (opc : Byte) (pre : List Byte) (n : Nat) (s : State) (hs : s.lora.csAsserted = false) :
    (readTransaction opc pre n s).1.length = n ∧
      DoesBus s [.read opc pre (readTransaction opc pre n s).1] (readTransaction opc pre n s).2 := by
  obtain ⟨tr, w, e, hl, hb, hr, he⟩ := readTransaction_spec opc pre n s hs
  have := hb _ _ _ .nil
  rw [List.append_nil, Tally.seq_zero] at this
  exact ⟨hl, tr, _, e, this, hr, he⟩

theorem doesBus_wait (T : Nat) (s : State) : DoesBus s [.wait T (waitBusy T s).1] (waitBusy T s).2 := by
  obtain ⟨tr, e, hw, hr, he⟩ := waitBusy_spec T s
  have := BusTrace.wait hw (.nil (b := s.build) (T := s.lora.busyTimeout.toNat))
  rw [List.append_nil, Tally.seq_zero] at this
  exact ⟨tr, _, e, this, hr, he⟩

/-- Bus work leaves everything but the log counters and flags, the outcome registers, the inputs and the trace. -/
theorem DoesBus.frame {s t : State} {is : List BusItem} (h : DoesBus s is t) :
    ∃ tr y e, t = s.afterBus tr y e ∧ t.build = s.build ∧ t.lora.csAsserted = s.lora.csAsserted ∧
      t.lora.busyTimeout = s.lora.busyTimeout ∧ t.lora.lpb = s.lora.lpb ∧ t.lora.lpbLen = s.lora.lpbLen := by
  obtain ⟨tr, y, e, _, _, rfl⟩ := h
  exact ⟨tr, y, e, rfl, by simp⟩

end Sys2Proof.Machine
end

