-- ==== Sys2Proof/Laws/Codec.lean ====
section
/-! SUPPORT. What each shared procedure of the codec can do, said once: the string functions in the terms of Safety.lean
(44_ax25_codec.md R204, R206, R224, R225), appending to and taking from the byte buffer (R213, R214), and an address on the wire
(R110, R215, R218). -/

namespace Sys2Proof.Machine

/-! ### Strings -/

theorem stripTrailing_eq (l : List Byte) : stripTrailing l = l.rdropWhile (· == 0x20) := rfl

theorem decSsid_eq (x : BitVec 4) (h : x ≠ 0) : decSsid x = decimalDigits x.toNat := by
  revert x; decide

theorem ssidSuffix_eq (x : BitVec 4) : ssidSuffix x = if x = 0 then [] else 0x2D :: decimalDigits x.toNat := by
  unfold ssidSuffix
  split
  · rfl
  · rename_i h; rw [decSsid_eq x h]

theorem formatAddr_eq (A : Ax25Address) : formatAddr A = addressString A := by
  simp only [formatAddr, addressString, stripTrailing_eq, ssidSuffix_eq]

theorem joinCommas_eq (l : List (List Byte)) : joinCommas l = List.intercalate [0x2C] l := by
  induction l with
  | nil => rfl
  | cons x l ih =>
    cases l with
    | nil => simp [joinCommas, List.intercalate]
    | cons y l => rw [joinCommas, ih]; simp [List.intercalate]

theorem splitCommas_eq (l : List Byte) : splitCommas l = l.splitOn 0x2C := by
  induction l with
  | nil => rfl
  | cons c l ih =>
    show splitCommas (c :: l) = List.splitOnP (fun x : Byte => x == 0x2C) (c :: l)
    rw [splitCommas, ih, List.splitOn, List.splitOnP_cons_eq_if_modifyHead]
    by_cases hc : c = 0x2C
    · simp [hc]
    · have hn : List.splitOnP (fun x : Byte => x == 0x2C) l ≠ [] := List.splitOnP_ne_nil _ _
      rw [if_neg hc]
      simp only [beq_iff_eq, hc, if_false]
      cases h : List.splitOnP (fun x : Byte => x == 0x2C) l with
      | nil => contradiction
      | cons x xs => simp

theorem parseAddr_is7Bit (t : List Byte) : (parseAddr t).1.Is7Bit := by
  have hn : ∀ c : Byte, normChar c &&& 0x80 = 0 := by decide
  have hg : ∀ (l : List Byte) (k : Nat), (l.map normChar).getD k 0x20 &&& 0x80 = 0 := by
    intro l k
    rw [List.getD_eq_getElem?_getD, List.getElem?_map]
    cases l[k]? with
    | none => rfl
    | some c => exact hn c
  intro x hx
  simp only [parseAddr, Callsign.toList, Callsign.ofList, List.mem_cons, List.not_mem_nil, or_false] at hx
  rcases hx with rfl | rfl | rfl | rfl | rfl | rfl <;> exact hg _ _

theorem formatAddr_length_le (A : Ax25Address) : (formatAddr A).length ≤ 9 := by
  have h₁ : (stripTrailing A.call.toList).length ≤ 6 := by
    simpa [stripTrailing, Callsign.toList] using (List.dropWhile_sublist (· == 0x20) (l := A.call.toList.reverse)).length_le
  have h₂ : ∀ x : BitVec 4, (ssidSuffix x).length ≤ 3 := by decide
  have := h₂ A.ssid
  simp only [formatAddr, List.length_append]
  omega

theorem formatDigi_length_le (short : Bool) (A : Ax25Address) : (formatDigi short A).length ≤ 9 := by
  have h₂ : ∀ x : BitVec 4, (ssidSuffix x).length ≤ 3 := by decide
  have := h₂ A.ssid
  unfold formatDigi
  split
  · simp only; split
    · simp
    · simp; omega
  · exact formatAddr_length_le A

theorem joinCommas_length_le (n : Nat) (l : List (List Byte)) (h : ∀ x ∈ l, x.length ≤ n) :
    (joinCommas l).length ≤ (n + 1) * l.length - 1 := by
  induction l with
  | nil => simp [joinCommas]
  | cons x l ih =>
    cases l with
    | nil => have := h x (by simp); simp only [joinCommas, List.length_cons, List.length_nil]; omega
    | cons y l =>
      have h₁ := h x (by simp)
      have h₂ := ih (fun z hz => h z (List.mem_cons_of_mem x hz))
      simp only [joinCommas, List.length_append, List.length_cons, Nat.mul_add, Nat.mul_one] at *
      omega

/-! ### Appending to the byte buffer (R213) -/

/-- `AxbEmit` of a run of bytes stores as many as fit. -/
theorem axbEmitAll_spec (vs : List Byte) (s : State) (h : s.codec.axbLen ≤ s.build.axbCap) :
    let n := min vs.length (s.build.axbCap - s.codec.axbLen)
    axbEmitAll vs s =
      (decide (n = vs.length),
        { s with codec.axb := Memory.writeFrom s.codec.axb s.codec.axbLen (vs.take n), codec.axbLen := s.codec.axbLen + n }) := by
  induction vs generalizing s with
  | nil => simp [axbEmitAll, Memory.writeFrom]
  | cons v vs ih =>
    by_cases hf : s.codec.axbLen = s.build.axbCap
    · have := ih s h
      simp only [hf, Nat.sub_self, Nat.min_zero] at this ⊢
      simp [axbEmitAll, axbEmit, hf, this]
    · have := ih { s with codec.axb := Memory.write s.codec.axb s.codec.axbLen v, codec.axbLen := s.codec.axbLen + 1 }
        (by simp only; omega)
      simp only [axbEmitAll, axbEmit, if_neg hf, this]
      have hm : min (v :: vs).length (s.build.axbCap - s.codec.axbLen)
          = min vs.length (s.build.axbCap - (s.codec.axbLen + 1)) + 1 := by simp only [List.length_cons]; omega
      rw [hm, List.take_succ_cons, Memory.writeFrom]
      simp only [List.length_cons, Bool.true_and, Prod.mk.injEq, decide_eq_decide]
      refine ⟨by omega, ?_⟩
      simp only [State.mk.injEq, Codec.mk.injEq, true_and, and_true]
      omega

/-! ### Taking from the byte buffer (R214) -/

/-- `s` with the read index `k` bytes on, not past the end. -/
def State.axbAdvance (s : State) (k : Nat) : State := { s with codec.axbRd := min s.codec.axbLen (s.codec.axbRd + k) }

@[simp] theorem State.axbAdvance_axbLen (s : State) (k : Nat) : (s.axbAdvance k).codec.axbLen = s.codec.axbLen := rfl
@[simp] theorem State.axbAdvance_axb (s : State) (k : Nat) : (s.axbAdvance k).codec.axb = s.codec.axb := rfl

theorem State.axbAdvance_add (s : State) (j k : Nat) : (s.axbAdvance j).axbAdvance k = s.axbAdvance (j + k) := by
  simp only [State.axbAdvance, State.mk.injEq, Codec.mk.injEq, true_and, and_true]
  omega

theorem axbTake_spec (s : State) (h : s.codec.axbRd ≤ s.codec.axbLen) : axbTake s = (takenByte s 0, s.axbAdvance 1) := by
  unfold axbTake takenByte State.axbAdvance
  split
  · rename_i hl
    have : s.codec.axbRd = s.codec.axbLen := by omega
    rw [if_neg (by omega), Nat.min_eq_left (by omega), ← this]
  · rw [if_pos (by omega), Nat.min_eq_right (by omega)]; rfl

theorem takenByte_advance (s : State) (j k : Nat) :
    takenByte (s.axbAdvance j) k = takenByte s (j + k) := by
  unfold takenByte State.axbAdvance
  simp only
  by_cases hl : s.codec.axbRd + j ≤ s.codec.axbLen
  · rw [Nat.min_eq_right hl, Nat.add_assoc]
  · rw [if_neg (by omega), if_neg (by omega)]

theorem axbTake_advance (s : State) (j : Nat) :
    axbTake (s.axbAdvance j) = (takenByte s j, s.axbAdvance (j + 1)) := by
  rw [axbTake_spec _ (by simp only [State.axbAdvance]; omega), takenByte_advance s j 0, State.axbAdvance_add]
  rfl

/-- `DecodeAddr()` (R218): seven bytes taken. -/
theorem takeAddr_spec (s : State) (j : Nat) :
    takeAddr (s.axbAdvance (7 * j)) = (takenAddress s j, s.axbAdvance (7 * (j + 1))) := by
  simp only [takeAddr, axbTake_advance s _]
  rfl

/-- The digipeater loop (R218): addresses taken up to the first one flagged last or until there is no more room. -/
theorem takePath_spec (room count j : Nat) (s : State) (hc : count + room ≤ 7) :
    ∃ (m : Nat) (addr : Vector Ax25Address 9),
      m ≤ room ∧
      (∀ k, k + 1 < m → (takenByte s (7 * (j + k) + 6)).getLsbD 0 = false) ∧
      (m = room ∧ (∀ k, k + 1 = m → (takenByte s (7 * (j + k) + 6)).getLsbD 0 = false) ∨
        ∃ k, k + 1 = m ∧ (takenByte s (7 * (j + k) + 6)).getLsbD 0 = true) ∧
      (∀ k, k < m → addr[2 + count + k]? = some (takenAddress s (j + k))) ∧
      (∀ i, i < 2 + count ∨ 2 + count + m ≤ i → addr[i]? = s.codec.addr[i]?) ∧
      takePath room count (s.axbAdvance (7 * j)) = (count + m, { s with codec.addr := addr }.axbAdvance (7 * (j + m))) := by
  have hbit : ∀ A : State, ∀ k, (takenAddress A k).flags.getLsbD 0 = (takenByte A (7 * k + 6)).getLsbD 0 := by
    intro A k; simp [takenAddress]
  induction room generalizing count j s with
  | zero => exact ⟨0, s.codec.addr, by simp [takePath]⟩
  | succ room ih =>
    simp only [takePath, takeAddr_spec s j]
    have hset : (s.axbAdvance (7 * (j + 1))).setAddr (2 + count) (takenAddress s j)
        = (s.setAddr (2 + count) (takenAddress s j)).axbAdvance (7 * (j + 1)) := rfl
    rw [hset, hbit]
    by_cases hl : (takenByte s (7 * j + 6)).getLsbD 0 = true
    · rw [if_pos hl]
      refine ⟨1, s.codec.addr.setIfInBounds (2 + count) (takenAddress s j), by omega, by omega, .inr ⟨0, rfl, hl⟩, ?_, ?_, rfl⟩
      · intro k hk
        obtain rfl : k = 0 := by omega
        simp [Vector.getElem?_setIfInBounds]; omega
      · intro i hi
        rw [Vector.getElem?_setIfInBounds, if_neg (by omega)]
    · rw [if_neg hl]
      obtain ⟨m, addr, hm, hf, he, ha, hk, heq⟩ := ih (count + 1) (j + 1) (s.setAddr (2 + count) (takenAddress s j)) (by omega)
      have hby : ∀ k, takenByte (s.setAddr (2 + count) (takenAddress s j)) k = takenByte s k := fun _ => rfl
      have had : ∀ k, takenAddress (s.setAddr (2 + count) (takenAddress s j)) k = takenAddress s k := fun _ => rfl
      simp only [hby] at hf he
      simp only [had] at ha
      have hl' : (takenByte s (7 * j + 6)).getLsbD 0 = false := by simpa using hl
      refine ⟨m + 1, addr, by omega, ?_, ?_, ?_, ?_, ?_⟩
      · intro k hk'
        cases k with
        | zero => exact hl'
        | succ k => have := hf k (by omega); rwa [show j + (k + 1) = j + 1 + k by omega]
      · rcases he with ⟨h₁, h₂⟩ | ⟨k, h₁, h₂⟩
        · refine .inl ⟨by omega, fun k hk' => ?_⟩
          cases k with
          | zero => exact hl'
          | succ k => have := h₂ k (by omega); rwa [show j + (k + 1) = j + 1 + k by omega]
        · exact .inr ⟨k + 1, by omega, by rwa [show j + (k + 1) = j + 1 + k by omega]⟩
      · intro k hk'
        cases k with
        | zero =>
          rw [hk (2 + count + 0) (by omega)]
          simp [State.setAddr, Codec.setAddr, Vector.getElem?_setIfInBounds]; omega
        | succ k =>
          have := ha k (by omega)
          rwa [show 2 + (count + 1) + k = 2 + count + (k + 1) by omega, show j + 1 + k = j + (k + 1) by omega] at this
      · intro i hi
        rw [hk i (by omega)]
        simp only [State.setAddr, Codec.setAddr]
        rw [Vector.getElem?_setIfInBounds, if_neg (by omega)]
      · rw [heq]
        simp only [Prod.mk.injEq]
        exact ⟨by omega, by rw [show j + 1 + m = j + (m + 1) by omega]; rfl⟩

/-! ### Storing a parsed path (R224) -/

theorem storePath_spec (items : List (List Byte)) (i : Nat) (s : State) (hi : i + items.length ≤ 9) :
    ∃ addr : Vector Ax25Address 9,
      (∀ k, k < i ∨ i + items.length ≤ k → addr[k]? = s.codec.addr[k]?) ∧
      (∀ k t, items[k]? = some t → addr[i + k]? = some ⟨(parseAddr t).1, (parseAddr t).2, 0⟩) ∧
      storePath i items s = { s with codec.addr := addr } := by
  induction items generalizing i s with
  | nil => exact ⟨s.codec.addr, by simp, by simp, rfl⟩
  | cons t items ih =>
    simp only [List.length_cons] at hi ⊢
    obtain ⟨addr, h₁, h₂, h₃⟩ := ih (i + 1) (s.setAddr i ⟨(parseAddr t).1, (parseAddr t).2, 0⟩) (by omega)
    refine ⟨addr, ?_, ?_, ?_⟩
    · intro k hk
      rw [h₁ k (by omega)]
      simp only [State.setAddr, Codec.setAddr]
      rw [Vector.getElem?_setIfInBounds, if_neg (by omega)]
    · intro k u hk
      cases k with
      | zero =>
        rw [h₁ (i + 0) (by omega)]
        simp only [List.getElem?_cons_zero, Option.some.injEq] at hk
        subst hk
        simp [State.setAddr, Codec.setAddr, Vector.getElem?_setIfInBounds]; omega
      | succ k => rw [show i + (k + 1) = i + 1 + k by omega]; exact h₂ k u (by simpa using hk)
    · simp only [storePath]
      rw [h₃]; rfl

end Sys2Proof.Machine
end

