-- ==== Sys2Proof/Laws/Encoding.lean ====
section
/-! SUPPORT. The fields of a command word put together and taken apart (30_encoding.md R101), and what test 2 of R105 says of a row
(R104). -/

namespace Sys2Proof

theorem opField_append (o a : Byte) (b : Word) : opField (o ++ a ++ b) = o := by
  unfold opField
  apply BitVec.eq_of_getLsbD_eq
  intro i hi
  have h₁ := BitVec.getLsbD_append (x := o ++ a) (y := b) (i := 40 + i)
  have h₂ := BitVec.getLsbD_append (x := o) (y := a) (i := 40 + i - 32)
  rw [if_neg (by omega)] at h₁ h₂
  rw [BitVec.getLsbD_extractLsb']
  simp only [hi, decide_true, Bool.true_and]
  exact (h₁.trans h₂).trans (congrArg o.getLsbD (by omega))

theorem aField_append (o a : Byte) (b : Word) : aField (o ++ a ++ b) = a := by
  unfold aField
  apply BitVec.eq_of_getLsbD_eq
  intro i hi
  have h₁ := BitVec.getLsbD_append (x := o ++ a) (y := b) (i := 32 + i)
  have h₂ := BitVec.getLsbD_append (x := o) (y := a) (i := 32 + i - 32)
  rw [if_neg (by omega)] at h₁
  rw [if_pos (by omega)] at h₂
  rw [BitVec.getLsbD_extractLsb']
  simp only [hi, decide_true, Bool.true_and]
  exact (h₁.trans h₂).trans (congrArg a.getLsbD (by omega))

theorem bField_append (o a : Byte) (b : Word) : bField (o ++ a ++ b) = b := by
  unfold bField
  apply BitVec.eq_of_getLsbD_eq
  intro i hi
  have h₁ := BitVec.getLsbD_append (x := o ++ a) (y := b) (i := 0 + i)
  rw [if_pos (by omega)] at h₁
  rw [BitVec.getLsbD_extractLsb']
  simp only [hi, decide_true, Bool.true_and]
  exact h₁.trans (congrArg b.getLsbD (by omega))

/-- Decoding an encoded instruction looks at its three fields. -/
theorem decode_encode (i : Instr) : decode (encode i) = decodeFields (opcodeOf i) (aOf i) (bOf i) := by
  unfold decode encode
  rw [opField_append, aField_append, bField_append]

/-- A row whose reserved bits are 0 decodes to its operation. -/
theorem operands_ok {op a : Byte} {b : Word} {ma : Byte} {mb : Word} {i j : Instr} (ha : a &&& ~~~ma = 0) (hb : b &&& ~~~mb = 0)
    (h : i = j) : operands op a b ma mb i = .ok j := by
  unfold operands
  rw [if_pos ⟨ha, hb⟩, h]

/-- A row decodes only to its operation, and only with its reserved bits 0. -/
theorem operands_inv {op a : Byte} {b : Word} {ma : Byte} {mb : Word} {i j : Instr} (h : operands op a b ma mb j = .ok i) :
    j = i ∧ a &&& ~~~ma = 0 ∧ b &&& ~~~mb = 0 := by
  unfold operands at h
  split at h
  · rename_i hr
    injection h with h
    exact ⟨h, hr⟩
  · injection h

end Sys2Proof
end

