-- ==== Sys2Proof/Laws/Engines.lean ====
section
/-! SUPPORT. What the shared operations of the engines can do, each said once: the gates of R105, the ring's `Put` and `NextFrame`
(41_ring_buffer.md R131, R132), the capture's `Boundary` (42_capture_and_clock.md R161), the modulator's `LoadNext` and `DeKey`
(43_modulator.md R183, R187), and reset (70_reset_and_hazards.md R360, R361). -/

namespace Sys2Proof.Machine

/-! ### Gates (R105) -/

@[simp] theorem onAfsk_built {s : State} {k : Result} (h : s.build.backend = .afsk) : onAfsk s k = k := by simp [onAfsk, h]
@[simp] theorem onAfsk_absent {s : State} {k : Result} (h : s.build.backend ≠ .afsk) : onAfsk s k = .next (s.withRsp .absent 0) := by
  simp [onAfsk, h, State.refuse, State.respond]
@[simp] theorem onLora_built {s : State} {k : Result} (h : s.build.backend = .lora) : onLora s k = k := by simp [onLora, h]
@[simp] theorem onLora_absent {s : State} {k : Result} (h : s.build.backend ≠ .lora) : onLora s k = .next (s.withRsp .absent 0) := by
  simp [onLora, h, State.refuse, State.respond]
theorem onRing_enabled {s : State} {k : Result} (h : s.build.backend = .afsk) (he : s.ring.rbEnabled = true) : onRing s k = k := by
  simp [onRing, h, he]
theorem onRing_disabled {s : State} {k : Result} (h : s.build.backend = .afsk) (he : s.ring.rbEnabled = false) :
    onRing s k = .next (s.withRsp .disabled 0) := by
  simp [onRing, h, he, State.refuse, State.respond]

/-- A gate either lets the operation run or refuses it and leaves the state alone. -/
theorem onRing_cases (s : State) (k : Result) :
    onRing s k = k ∨ onRing s k = .next (s.withRsp .absent 0) ∨ onRing s k = .next (s.withRsp .disabled 0) := by
  unfold onRing onAfsk
  split
  · split
    · exact .inl rfl
    · exact .inr (.inr rfl)
  · exact .inr (.inl rfl)

/-! ### Ring -/

theorem workerActive_iff (s : State) : s.workerActive = true ↔ s.cap.capState = .wait ∨ s.cap.capState = .run := by
  simp [State.workerActive]

/-- `Put` drops the sample and changes nothing, or stores it and advances the producer. -/
theorem put_cases (v : Byte) (s : State) :
    (put v s = s ∧
        ((0 < s.unread ∧ s.ring.writeCursor = s.ring.readCursor) ∨ s.ring.provisionalFrameLength = s.build.ringCap - 1)) ∨
      (¬ (0 < s.unread ∧ s.ring.writeCursor = s.ring.readCursor) ∧ s.ring.provisionalFrameLength ≠ s.build.ringCap - 1 ∧
        put v s =
          { s with
            ring.buf := Memory.write s.ring.buf s.ring.writeCursor v
            ring.writeCursor := (s.ring.writeCursor + 1) % s.build.ringCap
            ring.provisionalFrameLength := s.ring.provisionalFrameLength + 1 }) := by
  unfold put
  by_cases h₁ : 0 < s.unread ∧ s.ring.writeCursor = s.ring.readCursor
  · exact .inl ⟨if_pos h₁, .inl h₁⟩
  · by_cases h₂ : s.ring.provisionalFrameLength = s.build.ringCap - 1
    · exact .inl ⟨by rw [if_neg h₁, if_pos h₂], .inr h₂⟩
    · exact .inr ⟨h₁, h₂, by rw [if_neg h₁, if_neg h₂]⟩

/-- `Put` touches the ring alone, and of it the cell at the write cursor, that cursor and the provisional length. -/
theorem put_frame (v : Byte) (s : State) :
    ∃ buf wc len, put v s =
      { s with ring.buf := buf, ring.writeCursor := wc, ring.provisionalFrameLength := len } := by
  rcases put_cases v s with ⟨h, _⟩ | ⟨_, _, h⟩
  · exact ⟨_, _, _, h⟩
  · exact ⟨_, _, _, h⟩

theorem put_ringInv {s : State} (v : Byte) (h : RingInv s.build s.ring) : RingInv s.build (put v s).ring := by
  rcases put_cases v s with ⟨he, _⟩ | ⟨_, hl, he⟩
  · rwa [he]
  · have hlt : s.ring.writeCursor < s.build.ringCap := by
      rw [h.writeCursor_eq]; exact Nat.mod_lt _ (by have := h.committed_lt; omega)
    rw [he]
    exact { h with
      writeCursor_eq := by simp only; rw [h.writeCursor_eq]; simp [Nat.add_assoc]
      provisional_le := by have := h.provisional_le; simp only; omega
      buf_wf := Memory.write_wf _ _ _ h.buf_wf
      buf_within := Memory.write_within _ h.buf_within hlt }

theorem nextFrame_ringInv {s : State} (h : RingInv s.build s.ring) : RingInv s.build (nextFrame s).ring := by
  have hlt : s.ring.writeCursor < s.build.ringCap := by
    rw [h.writeCursor_eq]; exact Nat.mod_lt _ (by have := h.committed_lt; omega)
  exact { h with
    writeCursor_eq := by simp [nextFrame, Nat.mod_eq_of_lt hlt]
    provisional_lt := hlt
    provisional_le := by simp [nextFrame] }

/-! ### Capture -/

/-- `Boundary`: no candidate, a candidate too short, or a frame delivered. -/
theorem boundary_cases (s : State) :
    (s.cap.capCount = 0 ∧ boundary s = s) ∨
      (s.cap.capCount ≠ 0 ∧ s.cap.capCount.toNat < s.build.minFrame ∧
        boundary s =
          { s with
            ring.provisionalFrameStart := s.ring.writeCursor
            ring.provisionalFrameLength := 0
            cap.capCount := 0
            cap.pendingBoundary := false
            events.evt := s.events.evt ||| 0x0002 }) ∨
      (s.cap.capCount ≠ 0 ∧ s.build.minFrame ≤ s.cap.capCount.toNat ∧
        boundary s =
          { s with
            cap.capLen := s.cap.capCount
            cap.capCount := 0
            cap.pendingBoundary := false
            cap.fragFill := 0
            cap.fragIdx := 0
            cap.capState := .done
            events.evt := s.events.evt ||| 0x0001 }) := by
  unfold boundary
  by_cases h₀ : s.cap.capCount = 0
  · exact .inl ⟨h₀, if_pos h₀⟩
  · by_cases h₁ : s.cap.capCount.toNat < s.build.minFrame
    · exact .inr (.inl ⟨h₀, h₁, by rw [if_neg h₀, if_pos h₁]; rfl⟩)
    · exact .inr (.inr ⟨h₀, by omega, by rw [if_neg h₀, if_neg h₁]; rfl⟩)

/-! ### Modulator -/

/-- `LoadNext`: from the register, from the queue, or nothing left. -/
theorem loadNext_cases (s : State) :
    (0 < s.tx.txBitsLeft ∧
        loadNext s =
          { s with
            tx.txCurBit := s.tx.txByte.getLsbD 0
            tx.txByte := s.tx.txByte >>> 1
            tx.txBitsLeft := s.tx.txBitsLeft - 1
            tx.txCurValid := true }) ∨
      (s.tx.txBitsLeft = 0 ∧ ∃ b q, s.tx.txq = b :: q ∧
        loadNext s =
          { s with
            tx.txq := q
            tx.txCurBit := b.getLsbD 0
            tx.txByte := b >>> 1
            tx.txBitsLeft := 7
            tx.txCurValid := true }) ∨
      (s.tx.txBitsLeft = 0 ∧ s.tx.txq = [] ∧ loadNext s = { s with tx.txCurValid := false }) := by
  unfold loadNext
  split
  · rename_i b q h₁ h₂
    exact .inr (.inl ⟨h₁, b, q, h₂, by simp [loadBit]⟩)
  · rename_i hn
    by_cases h : 0 < s.tx.txBitsLeft
    · exact .inl ⟨h, by simp [loadBit, h]⟩
    · have h₀ : s.tx.txBitsLeft = 0 := by omega
      cases hq : s.tx.txq with
      | nil => exact .inr (.inr ⟨h₀, rfl, by simp [loadBit, h₀]⟩)
      | cons b q => exact absurd hq (hn b q h₀)

/-! ### Reset -/

/-- Every memory is in canonical form after reset; a reset keeps the bytes of the memories as they are. -/
theorem resetFor_wf (b : Build) (e : Env) :
    Memory.wf (State.resetFor b e).ring.buf = true ∧ Memory.wf (State.resetFor b e).cap.frag = true ∧
      Memory.wf (State.resetFor b e).codec.axb = true ∧ Memory.wf (State.resetFor b e).codec.strb = true ∧
      Memory.wf (State.resetFor b e).lora.lpb = true := ⟨rfl, rfl, rfl, rfl, rfl⟩

theorem restart_memories (s : State) :
    s.restart.ring.buf = s.ring.buf ∧ s.restart.cap.frag = s.cap.frag ∧ s.restart.codec.axb = s.codec.axb ∧
      s.restart.codec.strb = s.codec.strb ∧ s.restart.lora.lpb = s.lora.lpb := ⟨rfl, rfl, rfl, rfl, rfl⟩

end Sys2Proof.Machine
end

