-- ==== Sys2Proof/Laws/PerInstr.lean ====
section
/-! SUPPORT. The family `EncodeOpcode`: bits 47:40 of an instruction's command word are its opcode (30_encoding.md R101, R104). One
lemma for each constructor. -/

namespace Sys2Proof.Laws.EncodeOpcode

/-- The `op` field of the command word is the opcode of the instruction's row. -/
def Statement (i : Instr) : Prop := opField (encode i) = opcodeOf i

theorem nop : Statement .nop := opField_append _ _ _
theorem rdreg (idx : Byte) : Statement (.rdreg idx) := opField_append _ _ _
theorem wrreg (idx : Byte) (v : Word) : Statement (.wrreg idx v) := opField_append _ _ _
theorem evclr (m : Half) : Statement (.evclr m) := opField_append _ _ _
theorem sreset : Statement .sreset := opField_append _ _ _
theorem setmode (m : ClkMode) : Statement (.setmode m) := opField_append _ _ _
theorem clkstop : Statement .clkstop := opField_append _ _ _
theorem require : Statement .require := opField_append _ _ _
theorem release : Statement .release := opField_append _ _ _
theorem ptt (on : Bool) : Statement (.ptt on) := opField_append _ _ _
theorem rbnext : Statement .rbnext := opField_append _ _ _
theorem rbput (v : Byte) : Statement (.rbput v) := opField_append _ _ _
theorem rbget : Statement .rbget := opField_append _ _ _
theorem rbeof : Statement .rbeof := opField_append _ _ _
theorem rbreset : Statement .rbreset := opField_append _ _ _
theorem rblast : Statement .rblast := opField_append _ _ _
theorem capstart (force : Bool) : Statement (.capstart force) := opField_append _ _ _
theorem capstop : Statement .capstop := opField_append _ _ _
theorem txqpush (v : Byte) : Statement (.txqpush v) := opField_append _ _ _
theorem txstart : Statement .txstart := opField_append _ _ _
theorem strclr : Statement .strclr := opField_append _ _ _
theorem strput (v : Byte) : Statement (.strput v) := opField_append _ _ _
theorem strget : Statement .strget := opField_append _ _ _
theorem s2a (idx : Byte) : Statement (.s2a idx) := opField_append _ _ _
theorem a2s (idx : Byte) : Statement (.a2s idx) := opField_append _ _ _
theorem axflg (idx : Byte) (f : Byte) : Statement (.axflg idx f) := opField_append _ _ _
theorem axrd (idx : Byte) : Statement (.axrd idx) := opField_append _ _ _
theorem axssid (idx : Byte) (v : Byte) : Statement (.axssid idx v) := opField_append _ _ _
theorem axndigi (n : BitVec 4) : Statement (.axndigi n) := opField_append _ _ _
theorem axctl (ctrl : Byte) (pid : Byte) : Statement (.axctl ctrl pid) := opField_append _ _ _
theorem axenc : Statement .axenc := opField_append _ _ _
theorem axdec : Statement .axdec := opField_append _ _ _
theorem s2d : Statement .s2d := opField_append _ _ _
theorem d2s (short : Bool) : Statement (.d2s short) := opField_append _ _ _
theorem axbclr : Statement .axbclr := opField_append _ _ _
theorem axbput (v : Byte) : Statement (.axbput v) := opField_append _ _ _
theorem axbget : Statement .axbget := opField_append _ _ _
theorem lpbclr : Statement .lpbclr := opField_append _ _ _
theorem lpbput (v : Byte) : Statement (.lpbput v) := opField_append _ _ _
theorem lpbrd (idx : Byte) : Statement (.lpbrd idx) := opField_append _ _ _
theorem lwcmd (opc : Byte) (n : Byte) : Statement (.lwcmd opc n) := opField_append _ _ _
theorem lrcmd (opc : Byte) (p : Byte) (n : Byte) : Statement (.lrcmd opc p n) := opField_append _ _ _
theorem lwreg (addr : Half) (v : Byte) : Statement (.lwreg addr v) := opField_append _ _ _
theorem lrreg (addr : Half) : Statement (.lrreg addr) := opField_append _ _ _
theorem lwbuf (off : Byte) (n : Byte) : Statement (.lwbuf off n) := opField_append _ _ _
theorem lrbuf (off : Byte) (n : Byte) : Statement (.lrbuf off n) := opField_append _ _ _
theorem lsend (len : Byte) : Statement (.lsend len) := opField_append _ _ _
theorem lrecv (cap : Half) : Statement (.lrecv cap) := opField_append _ _ _
theorem lsetrx (t : BitVec 24) : Statement (.lsetrx t) := opField_append _ _ _
theorem lpoll : Statement .lpoll := opField_append _ _ _
theorem lsetfreq (hz : Word) : Statement (.lsetfreq hz) := opField_append _ _ _
theorem lsetpwr (level : Byte) : Statement (.lsetpwr level) := opField_append _ _ _
theorem lrssi : Statement .lrssi := opField_append _ _ _
theorem lpktst : Statement .lpktst := opField_append _ _ _
theorem lwait (form : WaitForm) (t : Half) : Statement (.lwait form t) := opField_append _ _ _

end Sys2Proof.Laws.EncodeOpcode
end

