-- ==== Sys2Proof/Tests/Slice0.lean ====
section
/-! SUPPORT. Tests of the model on small states: what WellFormed and the decoder refuse, one word of every operation as spec/95
(V-E1) prints it, one step of every operation with the answer spec/95 gives, and for every statement with hypotheses a state and
operands that meet them. Expected values are those of spec/95_test_vectors.md; the vector's name is in the comment. -/

namespace Sys2Proof.Tests

open Sys2Proof.Machine

/-! ### WellFormed (95, V-E2: of AXFLG's flag byte only bits 7 and 0 are operand bits) -/

theorem test_wellFormed_axflg_bit1 : WellFormed (.axflg 2 0x02) = false := by decide
theorem test_wellFormed_axflg_bit6 : WellFormed (.axflg 2 0x40) = false := by decide
theorem test_wellFormed_axflg_both : WellFormed (.axflg 8 0x81) = true := by decide

/-! ### Decoding: one printed word of each of the 55 operations (95, V-E1) -/

/-- The word decodes to the instruction, and the instruction encodes to the word. -/
def Word48 (w : CmdWord) (i : Instr) : Prop := decodeTableWord 48 w.toNat = some i ∧ encode i = w

theorem test_words_system :
    Word48 0x000000000000 .nop ∧ Word48 0x010500000000 (.rdreg 0x05) ∧ Word48 0x021C00000800 (.wrreg 0x1C 2048) ∧
      Word48 0x030000000001 (.evclr 1) ∧ Word48 0x040000000000 .sreset ∧ Word48 0x050000000001 (.setmode .tx) ∧
      Word48 0x060000000000 .clkstop ∧ Word48 0x070000000000 .require ∧ Word48 0x080000000000 .release ∧
      Word48 0x090000000001 (.ptt true) := by
  unfold Word48; decide

theorem test_words_ring_and_capture :
    Word48 0x100000000000 .rbnext ∧ Word48 0x1100000000FD (.rbput 0xFD) ∧ Word48 0x120000000000 .rbget ∧
      Word48 0x130000000000 .rbeof ∧ Word48 0x140000000000 .rbreset ∧ Word48 0x150000000000 .rblast ∧
      Word48 0x200000000001 (.capstart true) ∧ Word48 0x210000000000 .capstop := by
  unfold Word48; decide

theorem test_words_modulator : Word48 0x30000000007E (.txqpush 0x7E) ∧ Word48 0x310000000000 .txstart := by
  unfold Word48; decide

theorem test_words_codec_addresses :
    Word48 0x400000000000 .strclr ∧ Word48 0x41000000004E (.strput 0x4E) ∧ Word48 0x420000000000 .strget ∧
      Word48 0x430100000000 (.s2a 1) ∧ Word48 0x440100000000 (.a2s 1) ∧ Word48 0x450200000080 (.axflg 2 0x80) ∧
      Word48 0x460100000000 (.axrd 1) ∧ Word48 0x470000000005 (.axssid 0 5) ∧ Word48 0x480000000002 (.axndigi 2) := by
  unfold Word48; decide

theorem test_words_codec_frames :
    Word48 0x4900000003F0 (.axctl 0x03 0xF0) ∧ Word48 0x4A0000000000 .axenc ∧ Word48 0x4B0000000000 .axdec ∧
      Word48 0x4C0000000000 .s2d ∧ Word48 0x4D0000000001 (.d2s true) ∧ Word48 0x4E0000000000 .axbclr ∧
      Word48 0x4F000000009C (.axbput 0x9C) ∧ Word48 0x500000000000 .axbget := by
  unfold Word48; decide

theorem test_words_lora_primitives :
    Word48 0x600000000000 .lpbclr ∧ Word48 0x610000000048 (.lpbput 0x48) ∧ Word48 0x620000000003 (.lpbrd 3) ∧
      Word48 0x638000000001 (.lwcmd 0x80 1) ∧ Word48 0x641200000002 (.lrcmd 0x12 0 2) ∧
      Word48 0x650000074034 (.lwreg 0x0740 0x34) ∧ Word48 0x660000000740 (.lrreg 0x0740) ∧ Word48 0x670000000005 (.lwbuf 0 5) ∧
      Word48 0x681000000004 (.lrbuf 0x10 4) := by
  unfold Word48; decide

theorem test_words_lora_packets :
    Word48 0x690000000005 (.lsend 5) ∧ Word48 0x6A0000000040 (.lrecv 64) ∧ Word48 0x6B0000FFFFFF (.lsetrx 0xFFFFFF) ∧
      Word48 0x6C0000000000 .lpoll ∧ Word48 0x6D0019DAE198 (.lsetfreq 433775000) ∧ Word48 0x6E0000000003 (.lsetpwr 3) ∧
      Word48 0x6F0000000000 .lrssi ∧ Word48 0x700000000000 .lpktst ∧ Word48 0x710000000064 (.lwait .single 100) ∧
      Word48 0x710100000000 (.lwait .polled 0) := by
  unfold Word48; decide

/-- 95, V-E2: unassigned opcodes and reserved bits are refused by name. -/
theorem test_words_refused :
    decode 0x0A0000000000 = .error (.unassigned 0x0A) ∧ decode 0x160000000000 = .error (.unassigned 0x16) ∧
      decode 0x510000000000 = .error (.unassigned 0x51) ∧ decode 0x720000000000 = .error (.unassigned 0x72) ∧
      decode 0xFF0000000000 = .error (.unassigned 0xFF) ∧ decode 0x100000000001 = .error (.reservedBit 0x10) ∧
      decode 0x120100000000 = .error (.reservedBit 0x12) ∧ decode 0x110000000100 = .error (.reservedBit 0x11) ∧
      decode 0x450200000002 = .error (.reservedBit 0x45) ∧ decode 0x480000000010 = .error (.reservedBit 0x48) ∧
      decode 0x710200000000 = .error (.reservedBit 0x71) ∧ decode 0x6B0001000000 = .error (.reservedBit 0x6B) := by
  decide

/-! ### Small states (95, "Parameter values used by the vectors") -/

/-- The AFSK build with the small parameters of spec/95: `N` = 8, `FRAG_LEN` = 2, `MIN_FRAME` = 3. -/
def afskBuild : Build :=
  { backend := .afsk, ringCap := 8, minFrame := 3, fragLen := 2, adcChan := 0
    pwrTable := #v[0xB0, 0xB1, 0xB2, 0xB3, 0xB4, 0xB5, 0xB6], pwrRamp := 0xCC, txTimeout := 0xD2D1D0 }

/-- The same parameters in the LORA build. -/
def loraBuild : Build := { afskBuild with backend := .lora }

/-- The AFSK build after reset. -/
def afsk : State := State.resetFor afskBuild Env.initial

/-- The LORA build after reset, an idle chip that answers these bytes. -/
def lora (bytes : List Byte) : State :=
  State.resetFor loraBuild { Env.initial with busy := List.replicate 30 false, busIn := bytes }

/-- The LORA build after reset, a good chip (0x22 to every transfer). -/
def good : State := lora (List.replicate 60 0x22)

/-- `s` with this offered next. -/
def offer (s : State) (e : Stimulus) : State := { s with env.agenda := [e] }

/-- The answer is a next state with this property. -/
def goes (r : Result) (p : State → Bool) : Bool :=
  match r with
  | .next t => p t
  | .fault _ => false
  | .refused _ => false

/-- The answer is a next state with response `st, val` and this property. -/
def answers (r : Result) (st : Status) (val : Word) (p : State → Bool := fun _ => true) : Bool :=
  goes r fun t => t.out.rsp == some ⟨st, val⟩ && p t

/-- The bytes driven on the bus, in order. -/
def driven (s : State) : List Byte :=
  s.out.trace.filterMap fun e =>
    match e with
    | .xfer o _ => some o
    | .poll _ => none
    | .select => none
    | .deselect => none
    | .pin _ _ => none

/-- The string buffer holds this text. -/
def withText (s : State) (t : List Byte) : State :=
  { s with codec.strb := t.mapIdx (fun k b => (k, b)), codec.strLen := t.length }

/-- The byte buffer holds these bytes. -/
def withBytes (s : State) (t : List Byte) : State :=
  { s with codec.axb := t.mapIdx (fun k b => (k, b)), codec.axbLen := t.length }

/-- The parameter buffer holds these bytes. -/
def withParams (s : State) (t : List Byte) : State :=
  { s with lora.lpb := t.mapIdx (fun k b => (k, b)), lora.lpbLen := t.length }

/-- `N0CALL`, SSID 5. -/
def n0call5 : Ax25Address := ⟨⟨0x4E, 0x30, 0x43, 0x41, 0x4C, 0x4C⟩, 5, 0⟩

/-- `APRS`, SSID 0. -/
def aprs : Ax25Address := ⟨⟨0x41, 0x50, 0x52, 0x53, 0x20, 0x20⟩, 0, 0⟩

/-- The frame registers of V-X5: `APRS`, `N0CALL-5`, no digipeater, UI, PID 0xF0. -/
def minimalFrame : State :=
  { afsk with
    codec.addr := (afsk.codec.addr.setIfInBounds 0 aprs).setIfInBounds 1 n0call5
    codec.axCtrl := 0x03
    codec.axPid := 0xF0 }

/-- The header of V-X5. -/
def minimalHeader : List Byte :=
  [0x82, 0xA0, 0xA4, 0xA6, 0x40, 0x40, 0x60, 0x9C, 0x60, 0x86, 0x82, 0x98, 0x98, 0x6B, 0x03, 0xF0]

/-! ### System operations (95, V-S1 to V-S4, V-A1, V-M5, V-C2) -/

theorem test_nop : answers (exec .nop afsk) .ok 0 fun t => t == afsk.withRsp .ok 0 := by decide
theorem test_rdreg_id : answers (exec (.rdreg 0x00) afsk) .ok 0x41540100 := by decide
theorem test_rdreg_ranges :
    answers (exec (.rdreg 0x40) afsk) .absent 0 ∧ answers (exec (.rdreg 0x0A) afsk) .range 0 ∧
      answers (exec (.rdreg 0x4A) good) .ok 0x1388 := by
  decide
theorem test_wrreg_sql : answers (exec (.wrreg 0x07 0x40) afsk) .ok 0 fun t => t.events.sqlLevel == 0x40 := by decide
theorem test_wrreg_scale_16 : answers (exec (.wrreg 0x1D 16) afsk) .range 0 fun t => t == afsk.withRsp .range 0 := by decide
theorem test_evclr :
    answers (exec (.evclr 1) { afsk with events.evt := 0x0041 }) .ok 0x41 fun t => t.events.evt == 0x0040 := by
  decide
theorem test_sreset :
    answers (exec .sreset { afsk with tx.ptt := true, avail.useCount := 1, clk.clkRun := true }) .ok 0 fun t =>
      t == afsk.withRsp .ok 0 := by
  decide
theorem test_setmode_tx : answers (exec (.setmode .tx) afsk) .ok 0 fun t => t.clk == ⟨true, .tx⟩ := by decide
theorem test_clkstop_keeps_mode :
    answers (exec .clkstop { afsk with clk := ⟨true, .tx⟩ }) .ok 0 fun t => t.clk == ⟨false, .tx⟩ := by
  decide
theorem test_require_afsk :
    answers (exec .require afsk) .ok 1 fun t =>
      t.avail == ⟨true, 1, true, true, true, false⟩ && t.events.evt == 0x0400 && t.levels.radioPwr := by
  decide
theorem test_require_saturates :
    answers (exec .require { afsk with avail.useCount := 0xFFFF, avail.onOff := true }) .ok 0xFFFF := by
  decide
theorem test_release_floor : answers (exec .release afsk) .ok 0 fun t => t == afsk.withRsp .ok 0 := by decide
theorem test_release_last :
    answers (exec .release { afsk with avail.useCount := 1, avail.onOff := true }) .ok 0 fun t =>
      t.avail.pdPending && t.avail.onOff := by
  decide
theorem test_ptt : answers (exec (.ptt true) afsk) .ok 0 fun t => t.tx.ptt && !t.avail.txOff := by decide

/-! ### Ring and capture (95, V-R1 to V-R8, V-C3) -/

/-- V-R3: four samples committed and unread, the writer at cell 4 of 8. -/
def unreadFrame : State :=
  { afsk with ring := ⟨0, 4, 0, 4, 4, 0, [(0, 1), (1, 2), (2, 3), (3, 4)], true⟩ }

/-- V-R3: four more stored, so that the writer stands at the oldest unread sample. -/
def collision : State :=
  { afsk with
    ring := ⟨0, 0, 0, 4, 4, 4, [(0, 1), (1, 2), (2, 3), (3, 4), (4, 5), (5, 6), (6, 7), (7, 8)], true⟩ }

/-- V-R1: seven samples stored with no committed frame, the ring's capacity. -/
def fullRing : State := { afsk with ring.writeCursor := 7, ring.provisionalFrameLength := 7 }

theorem test_rbnext : answers (exec .rbnext fullRing) .ok 0 fun t =>
    t.ring.provisionalFrameStart == 7 && t.ring.provisionalFrameLength == 0 := by
  decide
theorem test_rbput_stores : answers (exec (.rbput 0xFD) afsk) .ok 0 fun t =>
    t.ring.buf == [(0, 0xFD)] && t.ring.writeCursor == 1 && t.ring.provisionalFrameLength == 1 := by
  decide
theorem test_rbput_drops : answers (exec (.rbput 9) collision) .ok 0 (· == collision.withRsp .ok 0) ∧
    answers (exec (.rbput 8) fullRing) .ok 0 (· == fullRing.withRsp .ok 0) := by
  decide
theorem test_rbget_signed : answers (exec .rbget { afsk with ring.buf := [(0, 0x80)] }) .ok 0xFFFFFF80 fun t =>
    t.ring.readCursor == 1 := by
  decide
theorem test_rbeof : answers (exec .rbeof unreadFrame) .ok 0 ∧ answers (exec .rbeof afsk) .ok 1 ∧
    answers (exec .rbeof { unreadFrame with ring.readCursor := 4 }) .ok 1 := by
  decide
theorem test_rbreset : answers (exec .rbreset { unreadFrame with ring.readCursor := 3 }) .ok 0 (·.ring.readCursor == 0) := by
  decide
theorem test_rblast : answers (exec .rblast { unreadFrame with ring.provisionalFrameLength := 3 }) .ok 3 fun t =>
    t.ring.committedFrameStart == 4 && t.ring.committedFrameLength == 3 && t.ring.readCursor == 4 := by
  decide
theorem test_capstart : answers (exec (.capstart false) afsk) .ok 0 (·.cap.capState == .wait) ∧
    answers (exec (.capstart true) afsk) .ok 0 (fun t => t.cap.capState == .run && t.cap.capForce) ∧
    answers (exec (.capstart false) { afsk with cap.capState := .run }) .busy 0 := by
  decide
theorem test_capstop : answers (exec .capstop { afsk with cap.capState := .run, cap.capForce := true, cap.capCount := 2 }) .ok 0
    fun t => t.cap.capState == .idle && t.cap.capForce && t.cap.capCount == 0 := by
  decide

/-- V-C1: conditioning at the reset values. -/
theorem test_condition : (condition 2048 4 0x000).toInt = -128 ∧ (condition 2048 4 0x7FF).toInt = -1 ∧
    (condition 2048 4 0x760).toInt = -10 ∧ (condition 2048 4 0x810).toInt = 1 ∧ (condition 2048 4 0xFFF).toInt = 127 := by
  decide

/-! ### Modulator (95, V-M1, V-M4) -/

/-- V-M1 after TXSTART: the byte 0x7E with its first bit loaded. -/
def keyed : State :=
  { afsk with tx := ⟨.keyed, 0x3F, 7, false, true, .mark, true, true, []⟩, clk := ⟨true, .tx⟩, avail.txOff := false }

theorem test_txqpush : answers (exec (.txqpush 0x7E) afsk) .ok 0 (·.tx.txq == [0x7E]) := by decide
theorem test_txstart : answers (exec .txstart { afsk with tx.txq := [0x7E], clk := ⟨true, .tx⟩ }) .ok 0
    (· == keyed.withRsp .ok 0) := by
  decide
theorem test_txstart_empty : answers (exec .txstart afsk) .ok 0 (· == afsk.withRsp .ok 0) := by decide
theorem test_tickTx : goes (step (offer keyed .tick)) fun t =>
    t.tx == ⟨.keyed, 0x1F, 6, true, true, .space, true, true, []⟩ := by
  decide

/-! ### Codec (95, V-X1 to V-X10) -/

theorem test_strclr : answers (exec .strclr (withText afsk [0x41])) .ok 0 (·.codec.strLen == 0) := by decide
theorem test_strput : answers (exec (.strput 0x4E) afsk) .ok 0 fun t => t.codec.strb == [(0, 0x4E)] && t.codec.strLen == 1 := by
  decide
theorem test_strget : answers (exec .strget (withText afsk [0x57, 0x31])) .ok 0x57 (·.codec.strRd == 1) ∧
    answers (exec .strget afsk) .empty 0 := by
  decide
/-- `n0call-5`. -/
theorem test_s2a : answers (exec (.s2a 4) (withText afsk [0x6E, 0x30, 0x63, 0x61, 0x6C, 0x6C, 0x2D, 0x35])) .ok 0
    (·.codec.addr[4] == n0call5) := by
  decide
theorem test_s2a_range : answers (exec (.s2a 9) afsk) .range 0 := by decide
theorem test_a2s : answers (exec (.a2s 1) minimalFrame) .ok 8 fun t =>
    Memory.bytes .strb t.codec.strb 0 8 == [0x4E, 0x30, 0x43, 0x41, 0x4C, 0x4C, 0x2D, 0x35] := by
  decide
theorem test_axflg : answers (exec (.axflg 2 0x81) afsk) .ok 0 (·.codec.addr[2].flags == 0x81) ∧
    answers (exec (.axflg 9 0x80) afsk) .range 0 := by
  decide
theorem test_axrd : answers (exec (.axrd 1) minimalFrame) .ok 0x00000500 := by decide
theorem test_axssid : answers (exec (.axssid 2 0x1F) afsk) .ok 0 (·.codec.addr[2].ssid == 15) := by decide
theorem test_axndigi : answers (exec (.axndigi 9) afsk) .ok 0 (·.codec.axNdigi == 9) := by decide
theorem test_axctl : answers (exec (.axctl 0x03 0xF0) afsk) .ok 0 fun t => t.codec.axCtrl == 0x03 && t.codec.axPid == 0xF0 := by
  decide
theorem test_axenc : answers (exec .axenc minimalFrame) .ok 16 fun t =>
    Memory.bytes .axb t.codec.axb 0 t.codec.axbLen == minimalHeader := by
  decide +kernel
/-- V-X7: 12 bytes fit. -/
theorem test_axenc_full : answers (exec .axenc { minimalFrame with codec.axbLen := 500 }) .full 12 (·.codec.axbLen == 512) := by
  decide +kernel
theorem test_axdec : answers (exec .axdec (withBytes afsk minimalHeader)) .ok 0 fun t =>
    t.codec.addr[0] == aprs && t.codec.addr[1] == { n0call5 with flags := 0x01 } && t.codec.axCtrl == 0x03 &&
      t.codec.axPid == 0xF0 && t.codec.axbRd == 16 := by
  decide +kernel
/-- V-X8: an empty buffer decodes to zeros. -/
theorem test_axdec_empty : answers (exec .axdec afsk) .ok 7 fun t =>
    t.codec.axNdigi == 7 && t.codec.addr[8] == ⟨⟨0, 0, 0, 0, 0, 0⟩, 0, 0⟩ && t.codec.axbRd == 0 := by
  decide +kernel
/-- `A,,B,` has four items. -/
theorem test_s2d : answers (exec .s2d (withText afsk [0x41, 0x2C, 0x2C, 0x42, 0x2C])) .ok 4 fun t =>
    t.codec.axNdigi == 4 && t.codec.addr[3] == Ax25Address.blank && t.codec.addr[4].call.c0 == 0x42 := by
  decide
/-- `WIDE1-1` is written `W1`, `WIDE2-1` as `W2-1`. -/
theorem test_d2s : answers (exec (.d2s true)
    { afsk with
      codec.axNdigi := 2
      codec.addr := (afsk.codec.addr.setIfInBounds 2 ⟨⟨0x57, 0x49, 0x44, 0x45, 0x31, 0x20⟩, 1, 0⟩).setIfInBounds 3
        ⟨⟨0x57, 0x49, 0x44, 0x45, 0x32, 0x20⟩, 1, 0⟩ }) .ok 7 fun t =>
    Memory.bytes .strb t.codec.strb 0 7 == [0x57, 0x31, 0x2C, 0x57, 0x32, 0x2D, 0x31] := by
  decide
theorem test_axbclr : answers (exec .axbclr (withBytes afsk [1, 2])) .ok 0 fun t => t.codec.axbLen == 0 && t.codec.axbRd == 0 := by
  decide
theorem test_axbput : answers (exec (.axbput 0x9C) afsk) .ok 0 fun t => t.codec.axb == [(0, 0x9C)] && t.codec.axbLen == 1 := by
  decide
theorem test_axbget : answers (exec .axbget (withBytes afsk [0x48])) .ok 0x48 (·.codec.axbRd == 1) ∧
    answers (exec .axbget afsk) .empty 0 := by
  decide

/-! ### LoRa (95, V-L1 to V-L7, V-K1 to V-K6) -/

theorem test_lpbclr : answers (exec .lpbclr (withParams good [1])) .ok 0 (·.lora.lpbLen == 0) := by decide +kernel
theorem test_lpbput : answers (exec (.lpbput 0x48) good) .ok 0 fun t => t.lora.lpb == [(0, 0x48)] && t.lora.lpbLen == 1 := by
  decide +kernel
theorem test_lpbrd : answers (exec (.lpbrd 3) (withParams good [0xDE, 0xAD, 0xBE, 0xEF])) .ok 0xEF ∧
    answers (exec (.lpbrd 4) (withParams good [0xDE, 0xAD, 0xBE, 0xEF])) .range 0 := by
  decide +kernel
theorem test_lwcmd : answers (exec (.lwcmd 0x80 1) (withParams good [0])) .ok 0x100 fun t =>
    t.out.trace == [.poll false, .select, .xfer 0x80 0x22, .xfer 0x00 0x22, .deselect, .poll false] := by
  decide +kernel
theorem test_lrcmd : answers (exec (.lrcmd 0x12 0 2) (lora [0, 0, 0x00, 0x02])) .ok 2 fun t =>
    driven t == [0x12, 0, 0, 0] && Memory.bytes .lpb t.lora.lpb 0 t.lora.lpbLen == [0x00, 0x02] := by
  decide +kernel
/-- V-L4: the first attempt fails at its second payload byte. -/
theorem test_lwreg_retry : answers (exec (.lwreg 0x0740 0x34) (lora ([0, 0x22, 0xFF] ++ List.replicate 4 0x22))) .ok 0x200 fun t =>
    driven t == [0x0D, 0x07, 0x40, 0x0D, 0x07, 0x40, 0x34] && t.events.logWarn == 1 := by
  decide +kernel
theorem test_lrreg : answers (exec (.lrreg 0x0740) (lora [0, 0, 0, 0, 0x14])) .ok 0x14 (driven · == [0x1D, 0x07, 0x40, 0, 0]) := by
  decide +kernel
theorem test_lwbuf : answers (exec (.lwbuf 0x80 2) (withParams good [0x48, 0x45])) .ok 0x100 (driven · == [0x0E, 0x80, 0x48, 0x45]) := by
  decide +kernel
theorem test_lrbuf : answers (exec (.lrbuf 0x10 4) (lora [0, 0, 0, 0xDE, 0xAD, 0xBE, 0xEF])) .ok 4 fun t =>
    driven t == [0x1E, 0x10, 0, 0, 0, 0, 0] && Memory.bytes .lpb t.lora.lpb 0 4 == [0xDE, 0xAD, 0xBE, 0xEF] := by
  decide +kernel
theorem test_lsend : answers (exec (.lsend 2) (withParams { good with lora.pktPreamble := 0x0123, lora.pktFlags := 0b101 } [1, 2])) .ok 2
    fun t => driven t ==
        [0x8C, 0x01, 0x23, 0, 2, 0, 1, 0x02, 0x03, 0xFF, 0x0E, 0, 1, 2, 0x83, 0xD2, 0xD1, 0xD0] &&
      t.lora.loraMode == .tx && !t.avail.txOff && t.lora.paEnable := by
  decide +kernel
/-- V-K4: status 0x0002, two bytes at offset 0x80. -/
theorem test_lrecv : answers (exec (.lrecv 64) (lora [0, 0, 0, 2, 0, 0, 2, 0x80, 0, 0, 0, 0x48, 0x49])) .ok 2 fun t =>
    driven t == [0x12, 0, 0, 0, 0x13, 0, 0, 0, 0x1E, 0x80, 0, 0, 0] && Memory.bytes .lpb t.lora.lpb 0 2 == [0x48, 0x49] := by
  decide +kernel
theorem test_lsetrx : answers (exec (.lsetrx 0xFFFFFF) good) .ok 0 fun t =>
    driven t == [0x02, 0x03, 0xFF, 0x82, 0xFF, 0xFF, 0xFF] && t.lora.loraMode == .rx && t.lora.rxTimeout == 0xFFFFFF := by
  decide +kernel
theorem test_lsetfreq : answers (exec (.lsetfreq 433775000) good) .ok 0x100 fun t =>
    driven t == [0x86, 0x1B, 0x1C, 0x66, 0x66] && t.lora.cfgFreq == 433775000 := by
  decide +kernel
theorem test_lsetpwr : answers (exec (.lsetpwr 9) good) .ok 0x100 fun t => driven t == [0x8E, 0xB6, 0xCC] && t.lora.cfgPwr == 9 := by
  decide +kernel
theorem test_lrssi : answers (exec .lrssi (lora [0, 0, 0x9C])) .ok 0x9C (driven · == [0x15, 0, 0]) := by decide +kernel
theorem test_lpktst : answers (exec .lpktst (lora [0, 0, 0x64, 0xF4, 0x62])) .ok 0x0064F462 (·.lora.lpbLen == 3) := by decide +kernel
theorem test_lwait : answers (exec (.lwait .single 3) good) .ok 1 (·.out.trace == [.poll false]) ∧
    answers (exec (.lwait .single 3) { good with env.busy := List.replicate 3 true }) .ok 0 (·.events.logWarn == 1) ∧
    answers (exec (.lwait .polled 5) good) .range 0 := by
  decide +kernel
/-- V-K3: the status `h l` read in each mode, the answer and the mode after. -/
theorem test_lpoll :
    let polls (m : LoraMode) (h l : Byte) : Result :=
      exec .lpoll { lora ([0, 0, h, l] ++ List.replicate 7 0x22) with lora.loraMode := m }
    answers (polls .rx 0 0) .ok 0 (·.lora.loraMode == .rx) ∧ answers (polls .rx 2 2) .ok 1 (·.lora.loraMode == .standby) ∧
      answers (polls .rx 2 0) .ok 2 (·.lora.loraMode == .standby) ∧ answers (polls .tx 2 1) .ok 3 (·.lora.loraMode == .rx) ∧
      answers (polls .tx 2 0) .ok 2 (·.lora.loraMode == .rx) ∧ answers (polls .standby 2 2) .ok 0 (·.lora.loraMode == .standby) := by
  decide +kernel
/-- V-L1. -/
theorem test_inspect : ([0x00, 0xFF, 0x22, 0x06, 0x08, 0x0A, 0xF7, 0x0E] : List Byte).map (fun b => (inspect {} b).code) =
    [4, 4, 0, 1, 2, 3, 1, 0] := by
  decide +kernel

/-! ### Witnesses: for each statement with hypotheses, a state and operands that meet them, clause by clause, at the edges of their
ranges. The name after `witness_` is the statement's. -/

theorem witness_DecodeOfEncode : WellFormed (.axflg 0xFF 0x81) = true ∧ WellFormed (.lwait .polled 0xFFFF) = true := by decide

theorem witness_EncodeOfDecode : decode 0x45FF00000081 = .ok (.axflg 0xFF 0x81) ∧ decode 0x71010000FFFF = .ok (.lwait .polled 0xFFFF) := by
  decide

/-- A word that is no operation's: its opcode, one above the last of its group, is no row's. -/
theorem witness_CommandDecodeOrder_illegal : ∀ i, WellFormed i = true → encode i ≠ 0x0A0000000000 := by
  intro i _ h
  have ho : opField (encode i) = opcodeOf i := opField_append _ _ _
  rw [h, show opField 0x0A0000000000 = 0x0A by decide] at ho
  cases i <;> simp [opcodeOf] at ho

/-- A word with a reserved bit set: RBNEXT with `b[0]` = 1 (95, V-E2). -/
theorem witness_CommandDecodeOrder_reserved : ∀ i, WellFormed i = true → encode i ≠ 0x100000000001 := by
  intro i _ h
  have ho : opField (encode i) = opcodeOf i := opField_append _ _ _
  rw [h, show opField 0x100000000001 = 0x10 by decide] at ho
  cases i <;> first | exact absurd h (by decide) | simp [opcodeOf] at ho

theorem witness_CommandDecodeOrder :
    (WellFormed .lpoll = true ∧ encode .lpoll = 0x6C0000000000 ∧ builtIn .lpoll afsk.build = false) ∧
      (builtIn .capstop afsk.build = true ∧ isRingOp .capstop = true ∧ { afsk.ring with rbEnabled := false }.rbEnabled = false) ∧
      (builtIn .capstop afsk.build = true ∧ isRingOp .capstop = true ∧ afsk.ring.rbEnabled = true) ∧
      (builtIn .nop good.build = true ∧ isRingOp .nop = false) := by
  decide

theorem witness_EveryStepAnswers :
    (offer afsk (.command 0xFF0000000000)).env.agenda = .command 0xFF0000000000 :: [] ∧ afsk.env.rstN = true := ⟨rfl, rfl⟩

theorem witness_StepRunsCommand :
    (offer afsk (.command 0x1100000000FD)).env.agenda = .command 0x1100000000FD :: [] ∧ afsk.env.rstN = true ∧
      decode 0x1100000000FD = .ok (.rbput 0xFD) := by
  decide

theorem witness_RdregResult : (0x1D : Byte) ∈ registerMap.map RegRow.idx ∧ (0x4C : Byte) ∈ registerMap.map RegRow.idx ∧
    (0x0A : Byte) ∉ registerMap.map RegRow.idx ∧ (0x4D : Byte) ∉ registerMap.map RegRow.idx := by
  decide

theorem witness_WrregResult :
    (0xFF : Byte) ∉ registerMap.map RegRow.idx ∧
      (∃ r ∈ registerMap, r.idx = 0x43 ∧ r.admits afskBuild = false) ∧
      (∃ r ∈ registerMap, r.idx = 0x00 ∧ r.admits afskBuild = true ∧ r.write = none) ∧
      (∃ r ∈ registerMap, r.idx = 0x1D ∧ r.admits afskBuild = true ∧ r.write = some 0xF ∧ (16 : Word) &&& ~~~0xF ≠ 0) ∧
      ((0xFFFF : Word) &&& ~~~0xFFFF = 0 ∧ (0xFF : Word) &&& ~~~0xFF = 0 ∧ (0xF : Word) &&& ~~~0xF = 0 ∧ (7 : Word) &&& ~~~7 = 0) ∧
      afsk.build.backend = .afsk ∧ good.build.backend = .lora := by
  refine ⟨by decide, ?_, ?_, ?_, by decide, rfl, rfl⟩ <;> simp [registerMap, registerMapBoth, registerMapAfsk, registerMapLora,
    RegRow.admits, afskBuild]

theorem witness_WrregReadsBack :
    answers (exec (.wrreg 0x03 0xFFFF) { afsk with events.evt := 0x0400 }) .ok 0 (·.levels.irq) ∧
      answers (exec (.wrreg 0x43 0xFFFFFFFF) good) .ok 0 := by
  decide

theorem witness_ResetPinResult : (offer afsk .resetLow).env.agenda = .resetLow :: [] ∧
    (let s : State := { offer afsk .resetHigh with env.rstN := false }
     s.env.agenda = .resetHigh :: [] ∧ s.env.rstN = false) ∧
    (offer good (.resetDuring 0x6B0000FFFFFF 3)).env.agenda = .resetDuring 0x6B0000FFFFFF 3 :: [] ∧ good.env.rstN = true := by
  decide

/-- Each offer of the third clause while `rst_n` is low. -/
theorem witness_ResetPinResult_low : ∀ e ∈ [Stimulus.command 0x1100000000FD, .tick, .capStep, .powerDown],
    let s : State := { offer afsk e with env.rstN := false }
    s.env.agenda = e :: [] ∧ s.env.rstN = false ∧ ((∃ w, e = .command w) ∨ e = .tick ∨ e = .capStep ∨ e = .powerDown) := by
  simp [offer]

/-- Both sides of the last clause's `k`: RBPUT has no bus events and has stored its byte; LRBUF, cut after 7 of its events or after all 8
of them, has not or has stored the byte it read. -/
theorem witness_ResetPinResult_cut :
    goes (runWord 0x1100000000FD afsk) (fun t => !decide (0 < t.out.trace.length) && Memory.byteAt .buf t.ring.buf 0 == 0xFD) ∧
      goes (runWord 0x680000000001 good) (fun t => decide (7 < t.out.trace.length) && !decide (8 < t.out.trace.length) &&
        Memory.byteAt .lpb t.lora.lpb 0 == 0x22) := by
  decide +kernel

theorem witness_ClockAndPttResult : afsk.build.backend = .afsk ∧ good.build.backend ≠ .afsk := by decide

theorem witness_RingFunctionFormulas : 0 < afsk.build.ringCap := by decide

theorem witness_RingReadersAndMarkersResult :
    good.build.backend ≠ .afsk ∧ (afsk.build.backend = .afsk ∧ { afsk.ring with rbEnabled := false }.rbEnabled = false) ∧
      afsk.ring.rbEnabled = true ∧ { afsk.cap with capState := .wait }.capState = .wait ∧ afsk.cap.capState = .idle := by
  decide

/-- Collision, full ring, and a ring with one place left. -/
theorem witness_RbputResult :
    (collision.build.backend = .afsk ∧ collision.ring.rbEnabled = true ∧ collision.cap.capState = .idle ∧ 0 < collision.unread ∧
        collision.ring.writeCursor = collision.ring.readCursor) ∧
      fullRing.ring.provisionalFrameLength = fullRing.build.ringCap - 1 ∧
      (¬ (0 < unreadFrame.unread ∧ unreadFrame.ring.writeCursor = unreadFrame.ring.readCursor) ∧
        { unreadFrame.ring with provisionalFrameLength := 6 }.provisionalFrameLength ≠ unreadFrame.build.ringCap - 1) := by
  decide

theorem witness_CaptureControlResult :
    good.build.backend ≠ .afsk ∧ afsk.build.backend = .afsk ∧ afsk.ring.rbEnabled = true ∧ afsk.cap.capState = .idle ∧
      { afsk.cap with capState := .run }.capState = .run := by
  decide

/-- A capture in progress with one place left in the fragment, and with none. -/
def sampling (fill : Nat) : State :=
  { offer afsk .tick with cap.capState := .run, cap.fragFill := fill, clk.clkRun := true }

theorem witness_TickRxResult :
    (sampling 1).env.agenda = .tick :: [] ∧ (sampling 1).env.rstN = true ∧ (offer good .tick).build.backend ≠ .afsk ∧ (offer afsk .tick).clk.clkRun = false ∧
      ((sampling 1).build.backend = .afsk ∧ (sampling 1).clk.clkRun = true ∧ (sampling 1).clk.clkMode = .rx ∧
        (sampling 1).cap.capState = .run ∧ (sampling 1).cap.fragFill < (sampling 1).build.fragLen) ∧
      ¬ ((sampling 2).cap.capState = .run ∧ (sampling 2).cap.fragFill < (sampling 2).build.fragLen) := by
  decide

/-- The detector's next answer is `d`, `n` samples counted. -/
def counting (d : Bool) (n : Word) : State := { afsk with env.det := [d], cap.capCount := n }

theorem witness_ProcessSampleResult :
    (⟨0x820, 0, false⟩ : AdcSample).valid = false ∧ (⟨0x810, 1, true⟩ : AdcSample).chan ≠ afsk.build.adcChan ∧
      ((⟨0x8A0, 0, true⟩ : AdcSample).valid = true ∧ (⟨0x8A0, 0, true⟩ : AdcSample).chan = afsk.build.adcChan) ∧
      (counting true 0).env.nextDet.1 = true ∧ (0 < collision.unread ∧ collision.ring.writeCursor = collision.ring.readCursor) ∧
      ((counting false 0).env.nextDet.1 = false ∧ (counting false 0).cap.capCount = 0) ∧
      ((counting false 2).cap.capCount ≠ 0 ∧ (counting false 2).cap.capCount.toNat < (counting false 2).build.minFrame) ∧
      ((counting false 3).cap.capCount ≠ 0 ∧ (counting false 3).build.minFrame ≤ (counting false 3).cap.capCount.toNat) := by
  decide

/-- A full fragment of invalid samples, its entry `idx` next, the squelch as given, `n` samples counted. -/
def draining (idx : Nat) (squelch : Bool) (n : Word) : State :=
  { offer afsk .capStep with
    env.squelchOpen := squelch
    cap := { afsk.cap with capState := .run, frag := [(0, ⟨0, 0, false⟩), (1, ⟨0, 0, false⟩)], fragFill := 2, fragIdx := idx, capCount := n } }

/-- The state in which the loop test of R161 is made. -/
def drained (idx : Nat) (squelch : Bool) (n : Word) : State :=
  processSample (Memory.fragAt (draining idx squelch n).cap.frag idx)
    { draining idx squelch n with env.agenda := [], out := StepOut.none, cap.fragIdx := idx + 1 }

theorem witness_CapStepResult :
    (draining 1 false 0).env.agenda = .capStep :: [] ∧ (draining 1 false 0).env.rstN = true ∧ (offer afsk .capStep).cap.capState = .idle ∧
      ((draining 1 false 0).build.backend = .afsk ∧ (draining 1 false 0).cap.fragFill = (draining 1 false 0).build.fragLen) ∧
      { afsk.env with squelchOpen := true }.squelchOpen = true ∧
      (0 + 1 ≠ (draining 0 false 0).build.fragLen) ∧
      ((drained 1 true 0).cap.capState = .run ∧ 1 + 1 = (draining 1 true 0).build.fragLen ∧ (draining 1 true 0).env.squelchOpen = true) ∧
      ((draining 1 false 0).env.squelchOpen = false ∧ (draining 1 false 0).cap.capForce = false ∧ (drained 1 false 0).cap.capCount = 0) ∧
      ((drained 1 false 2).cap.capCount ≠ 0 ∧ (drained 1 false 2).cap.capCount.toNat < afskBuild.minFrame) ∧
      ((drained 1 false 3).cap.capState = .run ∧ afskBuild.minFrame ≤ (drained 1 false 3).cap.capCount.toNat) := by
  decide

theorem witness_UnreadSampleKept :
    0 < collision.unread ∧ goes (step (offer collision (.command 0x110000000009))) (·.ring.writeCursor == 0) := by
  decide

theorem witness_PutsThenGetsInOrder :
    afsk.build.backend = .afsk ∧ afsk.ring.rbEnabled = true ∧ afsk.cap.capState = .idle ∧ afsk.ring.committedFrameLength = 0 ∧
      afsk.ring.readCursor = afsk.ring.writeCursor ∧ afsk.ring.writeCursor < afsk.build.ringCap ∧
      afsk.ring.provisionalFrameLength + ([1, 2, 3, 4, 5, 6, 7] : List Byte).length ≤ afsk.build.ringCap - 1 := by
  decide

/-- The frame wraps round the end of the ring. -/
theorem witness_CommittedFrameReplays :
    let s : State := { afsk with ring.writeCursor := 6, ring.readCursor := 6 }
    s.build.backend = .afsk ∧ s.ring.rbEnabled = true ∧ s.cap.capState = .idle ∧ s.unread = 0 ∧ s.ring.writeCursor < s.build.ringCap ∧
      ([1, 2, 3, 4, 5, 6, 7] : List Byte).length ≤ s.build.ringCap - 1 := by
  decide

/-- A committed frame of 4 in a ring of 8; between the reads two puts, a new candidate, then the capture worker. -/
theorem witness_EofExactlyAtFrameEnd :
    let es : List Stimulus := [.command 0x110000000005, .command 0x120000000000, .command 0x100000000000, .command 0x110000000006,
      .command 0x120000000000, .command 0x050000000000, .command 0x200000000001, .tick, .tick, .capStep, .command 0x120000000000,
      .capStep, .command 0x210000000000, .command 0x120000000000]
    let s : State := { unreadFrame with env.agenda := es ++ [.command 0x130000000000] }
    (s.build.backend = .afsk ∧ s.ring.rbEnabled = true ∧ s.env.rstN = true ∧ 0 < s.ring.committedFrameLength ∧
      s.ring.readCursor = s.ring.committedFrameStart ∧ s.ring.writeCursor = s.committedEnd ∧
      (∀ e ∈ es, e.keepsFrame = true) ∧ es.countP (fun e => e.instr? == some .rbget) = s.ring.committedFrameLength) ∧
      RingInv s.build s.ring := by
  refine ⟨by decide, ?_⟩
  constructor <;> first | decide | (unfold Memory.Within; decide)

theorem witness_TransmitQueueResult :
    good.build.backend ≠ .afsk ∧ afsk.build.backend = .afsk ∧
      { afsk.tx with txq := List.replicate 128 0 }.txq.length = afsk.build.txqDepth ∧ afsk.tx.txq.length ≠ afsk.build.txqDepth ∧
      keyed.tx.txState = .keyed ∧ afsk.tx.txq = [] ∧
      (afsk.tx.txState = .idle ∧ { afsk.tx with txq := [0x7E] }.txq = 0x7E :: [] ∧ afsk.tx.txBitsLeft = 0) ∧
      0 < { afsk.tx with txBitsLeft := 1 }.txBitsLeft := by
  decide +kernel

theorem witness_TickTxResult :
    (offer keyed .tick).env.agenda = .tick :: [] ∧ keyed.env.rstN = true ∧ keyed.build.backend = .afsk ∧ keyed.clk.clkRun = true ∧ keyed.clk.clkMode = .tx ∧
      afsk.tx.txState = .idle ∧ (keyed.tx.txState = .keyed ∧ { keyed.tx with txCurValid := false }.txCurValid = false) ∧
      (keyed.tx.txCurValid = true ∧ 0 < keyed.tx.txBitsLeft) ∧
      ({ keyed.tx with txBitsLeft := 0, txq := [0x55] }.txBitsLeft = 0 ∧ { keyed.tx with txq := [0x55] }.txq = 0x55 :: []) ∧
      keyed.tx.txq = [] := by
  decide

/-- A transmission begins, and its 8n + 1 ticks end it (95, V-M1). -/
theorem witness_TransmissionEmitsBits :
    let s : State := { afsk with tx.txq := [0x7E] }
    s.build.backend = .afsk ∧ s.tx.txState = .idle ∧ s.tx.txBitsLeft = 0 ∧ s.tx.txq ≠ [] ∧
      (tickTx^[9] keyed).tx.txState = .idle ∧ (tickTx^[8] keyed).tx.txState = .keyed := by
  decide

theorem witness_ByteBufferResult :
    { afsk.codec with strLen := 80 }.strLen = afsk.build.strCap ∧ afsk.codec.strLen ≠ afsk.build.strCap ∧
      { afsk.codec with axbLen := 512 }.axbLen = afsk.build.axbCap ∧ afsk.codec.axbLen ≠ afsk.build.axbCap ∧
      afsk.codec.strLen ≤ afsk.codec.strRd ∧ (withText afsk [0x57]).codec.strRd < (withText afsk [0x57]).codec.strLen ∧
      afsk.codec.axbLen ≤ afsk.codec.axbRd ∧ (withBytes afsk [0x48]).codec.axbRd < (withBytes afsk [0x48]).codec.axbLen ∧
      good.build.backend = .lora ∧ { good.lora with lpbLen := 256 }.lpbLen = good.build.lpbCap ∧ good.lora.lpbLen ≠ good.build.lpbCap ∧
      good.lora.lpbLen ≤ (0 : Byte).toNat ∧ (0 : Byte).toNat < (withParams good [1]).lora.lpbLen ∧ afsk.build.backend ≠ .lora := by
  decide

theorem witness_AddressFieldResult :
    8 < (9 : Byte).toNat ∧ minimalFrame.codec.addr[(8 : Byte).toNat]? = some Ax25Address.blank ∧
      minimalFrame.codec.addr[(1 : Byte).toNat]? = some n0call5 := by
  decide

/-- Two spaces, `ab`, `-`, `07`, then `x`; and the string with nothing but spaces. -/
theorem witness_ParseAddrFormula :
    ((∀ c ∈ ([0x61, 0x62] : List Byte), c ≠ 0x2D) ∧ ([0x61, 0x62] : List Byte).head? ≠ some 0x20) ∧
      ((∀ c ∈ ([] : List Byte), c ≠ 0x2D) ∧ ([] : List Byte).head? ≠ some 0x20) ∧
      (∀ d ∈ ([0x30, 0x39] : List Byte), 0x30 ≤ d ∧ d ≤ 0x39) ∧
      (∀ d, ([0x3A] : List Byte).head? = some d → ¬ (0x30 ≤ d ∧ d ≤ 0x39)) := by
  simp

theorem witness_StringToAddressResult : 8 < (9 : Byte).toNat ∧ (8 : Byte).toNat ≤ 8 := by decide

theorem witness_AddressToStringResult : 8 < (9 : Byte).toNat ∧ afsk.codec.addr[(8 : Byte).toNat]? = some Ax25Address.blank := by decide

/-- `WIDE1-1`, `WIDE9-15`, and a callsign that is not abbreviated. -/
theorem witness_DigiAbbreviation :
    (0x30 ≤ (0x30 : Byte) ∧ (0x39 : Byte) ≤ 0x39) ∧
      (⟨⟨0x57, 0x49, 0x44, 0x45, 0x39, 0x20⟩, 15, 0⟩ : Ax25Address).call = ⟨0x57, 0x49, 0x44, 0x45, 0x39, 0x20⟩ ∧
      ∀ d : Byte, 0x30 ≤ d → d ≤ 0x39 → n0call5.call ≠ ⟨0x57, 0x49, 0x44, 0x45, d, 0x20⟩ := by
  refine ⟨by decide, rfl, ?_⟩
  intro d _ _ h
  injection h with h
  exact absurd h (by decide)

theorem witness_AxencResult :
    afsk.codec.axbLen ≤ afsk.build.axbCap ∧ { afsk.codec with axbLen := 512 }.axbLen ≤ afsk.build.axbCap := by
  decide

theorem witness_AxdecResult :
    afsk.codec.axbRd ≤ afsk.codec.axbLen ∧
      (withBytes afsk minimalHeader).codec.axbRd ≤ (withBytes afsk minimalHeader).codec.axbLen := by
  decide

/-- The frame registers of V-X5 with the last flag where R215 puts it. -/
def consistentFrame : State := { minimalFrame with codec.addr := minimalFrame.codec.addr.setIfInBounds 1 { n0call5 with flags := 0x01 } }

/-- (a) -/
theorem witness_HeaderRoundTrips_registers : Consistent consistentFrame ∧ 65 ≤ consistentFrame.build.axbCap := by
  refine ⟨⟨by decide, ?_, by decide, ?_, by decide⟩, by decide⟩
  · unfold Callsign.Is7Bit; decide
  · intro k A h
    match k, h with
    | 0, h => injection h with h; subst h; decide
    | 1, h => injection h with h; subst h; decide
    | k + 2, h => exact absurd h (by simp [addressesInUse, consistentFrame, minimalFrame, afsk, State.resetFor])

/-- (b) -/
theorem witness_HeaderRoundTrips :
    CanonicalHeader 0 minimalHeader ∧
      (withBytes afsk minimalHeader).codec.axbRd + minimalHeader.length ≤ (withBytes afsk minimalHeader).codec.axbLen ∧
      Memory.bytes .axb (withBytes afsk minimalHeader).codec.axb 0 minimalHeader.length = minimalHeader ∧ 65 ≤ afsk.build.axbCap := by
  refine ⟨⟨by decide, by decide, ?_⟩, by decide, by decide +kernel, by decide⟩
  intro k hk
  unfold canonicalAddress
  match k, hk with
  | 0, _ => exact ⟨by decide, by decide, by intro b h; injection h with h; subst h; decide⟩
  | 1, _ => exact ⟨by decide, by decide, by intro b h; injection h with h; subst h; decide⟩

theorem witness_CodecIsPure :
    isCodecOp .axbget = true ∧ isCodecOp .strclr = true ∧ afsk.codec = good.codec ∧ afsk.build.axbCap = good.build.axbCap ∧
      afsk.build.strCap = good.build.strCap := by
  decide

/-- One byte for each clause, and the two bytes with no outcome in the masked sub-field. -/
theorem witness_InspectFormula :
    let c : ChipTable := {}
    (0xF7 : Byte) &&& c.statusMask = c.stCmdTimeout ∧ (0xF9 : Byte) &&& c.statusMask = c.stCmdInvalid ∧
      (0xFB : Byte) &&& c.statusMask = c.stCmdFailed ∧
      ∀ b ∈ ([0x00, 0xFF, 0x22] : List Byte),
        b &&& c.statusMask ≠ c.stCmdTimeout ∧ b &&& c.statusMask ≠ c.stCmdInvalid ∧ b &&& c.statusMask ≠ c.stCmdFailed := by
  decide

theorem witness_LwaitResult : good.build.backend = .lora ∧ (1 : Half) ≠ 0 := by decide

/-- `n` one above what the buffer holds, and equal to it. -/
theorem witness_WritePrimitivesResult :
    (withParams good [0]).build.backend = .lora ∧ (withParams good [0]).lora.csAsserted = false ∧ 1 ≤ good.build.maxAttempts ∧
      (withParams good [0]).lora.lpbLen < (2 : Byte).toNat ∧ (1 : Byte).toNat ≤ (withParams good [0]).lora.lpbLen := by
  decide

theorem witness_ReadPrimitivesResult :
    good.build.backend = .lora ∧ good.lora.csAsserted = false ∧ good.lora.lpbLen < (1 : Byte).toNat ∧ (0 : Byte).toNat ≤ good.lora.lpbLen := by
  decide

/-- The two scripted chips of R249. -/
theorem witness_RetryProperty :
    let s := withParams good [0]
    let bad (n : Nat) : List (Byte × Byte) := List.replicate n (0, 0x08)
    let four : State :=
      { s with env.busy := List.replicate 8 false ++ [], env.busIn := ((bad 3).flatMap fun x => [x.1, x.2]) ++ [0, 0x22] ++ [] }
    let ten : State :=
      { s with env.busy := List.replicate 20 false ++ [], env.busIn := ((bad 10).flatMap fun x => [x.1, x.2]) ++ [] }
    s.build.backend = .lora ∧ s.lora.csAsserted = false ∧ s.build.maxAttempts = 10 ∧ s.lora.busyTimeout ≠ 0 ∧
      1 ≤ s.lora.lpbLen ∧ Memory.byteAt .lpb s.lora.lpb 0 = 0 ∧ s.out.trace = [] ∧ inspect s.build.chip 0x08 = .invalid ∧
      inspect s.build.chip 0x22 = .ok ∧
      answers (exec (.lwcmd 0x80 1) four) .ok 0x400 ∧ answers (exec (.lwcmd 0x80 1) ten) .ok 0xA02 := by
  decide +kernel

theorem witness_BusWorkBounded :
    good.build.backend = .lora ∧ good.out.trace = [] ∧ 1 ≤ good.build.maxAttempts ∧
      goes (exec (.lwcmd 0x80 1) (withParams good [0])) (·.out.trace.length == 6) ∧
      goes (exec (.lrcmd 0x12 0 2) good) (·.out.trace.length == 8) := by
  decide +kernel

theorem witness_LsendResult :
    (withParams good [1, 2]).build.backend = .lora ∧ (withParams good [1, 2]).lora.csAsserted = false ∧ 1 ≤ good.build.maxAttempts ∧
      (withParams good [1, 2]).lora.lpbLen < (3 : Byte).toNat ∧ (2 : Byte).toNat ≤ (withParams good [1, 2]).lora.lpbLen := by
  decide

theorem witness_RadioConfigResult : good.build.backend = .lora ∧ good.lora.csAsserted = false ∧ 1 ≤ good.build.maxAttempts := by decide

/-- A CRC error, length 0, a length one above the capacity, and a length equal to it (95, V-K4). -/
theorem witness_LrecvResult :
    let receives (cap : Half) (l len : Byte) : Result := exec (.lrecv cap) (lora [0, 0, 0, l, 0, 0, len, 0x80, 0, 0, 0, 0x48, 0x49])
    good.build.backend = .lora ∧ good.lora.csAsserted = false ∧ answers (receives 64 0x42 2) .ok 0 (driven · == [0x12, 0, 0, 0]) ∧
      answers (receives 64 2 0) .ok 0 ∧ answers (receives 1 2 2) .ok 0 (driven · == [0x12, 0, 0, 0, 0x13, 0, 0, 0]) ∧
      answers (receives 2 2 2) .ok 2 := by
  decide +kernel

/-- Every clause on the chip status is met by a script of `test_lpoll`. -/
theorem witness_LpollResult : good.build.backend = .lora ∧ good.lora.csAsserted = false ∧ 1 ≤ good.build.maxAttempts := by decide

theorem witness_RequireResult :
    { afsk.avail with useCount := 0xFFFF }.useCount ≠ 0 ∧ (afsk.avail.useCount = 0 ∧ { afsk.avail with onOff := true }.onOff = true) ∧
      (afsk.avail.onOff = false ∧ afsk.build.backend = .afsk) := by
  decide

theorem witness_RequireBringsUpLora :
    good.build.backend = .lora ∧ good.avail.useCount = 0 ∧ good.avail.onOff = false ∧ good.lora.csAsserted = false ∧
      1 ≤ good.build.maxAttempts := by
  decide

theorem witness_ReleaseResult :
    afsk.avail.useCount = 0 ∧ { afsk.avail with useCount := 1 }.useCount = 1 ∧ 1 < { afsk.avail with useCount := 2 }.useCount.toNat := by
  decide

/-- A radio that is on with no user, a power-down owed and the transmitter off. -/
def owed (s : State) (e : Stimulus) : State := { offer s e with avail := ⟨true, 0, true, true, true, true⟩ }

theorem witness_PowerDownAndSquelchResult :
    (owed afsk .powerDown).env.agenda = .powerDown :: [] ∧ (owed afsk .powerDown).env.rstN = true ∧ (offer afsk .powerDown).avail.pdPending = false ∧
      ((owed afsk .powerDown).avail.pdPending = true ∧ (owed afsk .powerDown).avail.useCount = 0 ∧
        (owed afsk .powerDown).avail.txOff = true) ∧
      (owed good .powerDown).build.backend = .lora ∧ (owed afsk (.squelchEdge true)).env.agenda = .squelchEdge true :: [] ∧
      (owed afsk (.squelchEdge true)).avail.available = true ∧ (offer afsk (.squelchEdge true)).avail.available = false := by
  decide

theorem witness_AvailabilityProperty :
    (afsk.avail.useCount = 0 ∧ afsk.avail.onOff = false ∧ 1 ≤ 0xFFFF) ∧
      (goes (step (owed afsk .powerDown)) (!·.avail.onOff) ∧ goes (step (owed afsk .resetLow)) (!·.avail.onOff) ∧
        (owed afsk .powerDown).avail.onOff = true) := by
  decide

theorem witness_EventFlagsAreSticky :
    let s : State := { offer afsk (.command 0x030000000400) with events.evt := 0x0400 }
    s.events.evt.getLsbD 10 = true ∧ goes (step s) (!·.events.evt.getLsbD 10) := by
  decide

theorem witness_ModeAndToneWriters :
    goes (step (offer afsk (.command 0x050000000001))) (·.clk.clkMode != afsk.clk.clkMode) ∧
      goes (step (offer keyed .tick)) (·.tx.toneSel != keyed.tx.toneSel) := by
  decide

theorem witness_BusTraceIsBracketed :
    good.lora.csAsserted = false ∧ (∀ w k rest, (offer good (.command 0x6B0000FFFFFF)).env.agenda ≠ .resetDuring w k :: rest) ∧
      goes (step (offer good (.command 0x6B0000FFFFFF))) (·.out.trace.length == 16) := by
  refine ⟨rfl, ?_, by decide +kernel⟩
  intro w k rest h
  injection h with h
  injection h

theorem witness_RefusalsChangeNothing :
    answers (exec .axbget afsk) .empty 0 ∧ answers (exec .axenc { minimalFrame with codec.axbLen := 512 }) .full 0 := by
  decide +kernel

theorem witness_RefusalCauses :
    answers (exec (.rbput 0) { afsk with cap.capState := .wait }) .busy 0 ∧ answers (exec .strget afsk) .empty 0 ∧
      answers (exec (.strput 0) { afsk with codec.strLen := 80 }) .full 0 := by
  decide

/-- The small AFSK build after reset meets the invariant, and takes a step. -/
theorem witness_StepKeepsInv : Inv afsk ∧ goes (step (offer afsk (.command 0x1100000000FD))) (·.ring.writeCursor == 1) := by
  refine ⟨⟨?_, ?_, ?_, ?_, ?_, ?_, ?_, by decide, by decide⟩, by decide⟩
  · constructor <;> decide
  · constructor <;> first | decide | (intro _ h; exact absurd h (by simp [afsk, State.resetFor]))
  · constructor <;> first | decide | (intro _ h; exact absurd h (by simp [afsk, State.resetFor]))
  · constructor <;> decide
  · refine ⟨by decide, by decide, by decide, by decide, by decide, ?_, by decide, ?_, by decide, ?_⟩
    · intro _ h; exact absurd h (by simp [afsk, State.resetFor])
    · intro _ h; exact absurd h (by simp [afsk, State.resetFor])
    · unfold Callsign.Is7Bit; decide
  · constructor <;> first | decide | (intro _ h; exact absurd h (by simp [afsk, State.resetFor]))
  · constructor <;> decide

end Sys2Proof.Tests
end

section
/-! Which words have an operation (30_encoding.md R101, R102, R104 to R106): the word of a well-formed instruction decodes to it, and
a word that decodes is the word of the well-formed instruction it decodes to. First the operands in a field, by their shape: the
field's low bits, two operands side by side, one bit. -/

namespace Sys2Proof

/-! ### Operands in a field -/

theorem and_not_allOnes {w : Nat} (v : BitVec w) : v &&& ~~~(BitVec.allOnes w) = 0 := by simp

/-- An operand in the low bits of a field leaves the reserved bits above it 0. -/
theorem setWidth_and_not_mask {n w : Nat} (v : BitVec n) : v.setWidth w &&& ~~~((BitVec.allOnes n).setWidth w) = 0 := by
  ext k hk
  grind

theorem extractLsb'_setWidth_low {n w : Nat} (v : BitVec n) (hw : n ≤ w) : (v.setWidth w).extractLsb' 0 n = v := by
  rw [BitVec.extractLsb'_setWidth_of_le (by omega), BitVec.extractLsb'_eq_self]

theorem extractLsb'_high_setWidth_append {k m w : Nat} (c : BitVec k) (p : BitVec m) (hw : k + m ≤ w) :
    ((c ++ p).setWidth w).extractLsb' m k = c := by
  rw [BitVec.extractLsb'_setWidth_of_le (by omega), BitVec.extractLsb'_append_eq_left]

theorem extractLsb'_low_setWidth_append {k m w : Nat} (c : BitVec k) (p : BitVec m) (hw : k + m ≤ w) :
    ((c ++ p).setWidth w).extractLsb' 0 m = p := by
  rw [BitVec.extractLsb'_setWidth_of_le (by omega), BitVec.extractLsb'_append_eq_right]

theorem eq_zero_of_no_operand {w : Nat} {x : BitVec w} (h : x &&& ~~~0 = 0) : 0 = x := by simpa using h.symm

/-- A field whose reserved bits are 0 is its low operand. -/
theorem setWidth_extractLsb'_of_mask {n w : Nat} {x : BitVec w} (h : x &&& ~~~((BitVec.allOnes n).setWidth w) = 0) :
    (x.extractLsb' 0 n).setWidth w = x := by
  ext k hk
  have hbit := congrArg (·.getLsbD k) h
  grind

theorem setWidth_append_of_mask {k m w : Nat} {x : BitVec w} (h : x &&& ~~~((BitVec.allOnes (k + m)).setWidth w) = 0) :
    (x.extractLsb' m k ++ x.extractLsb' 0 m).setWidth w = x := by
  rw [BitVec.extractLsb'_append_extractLsb'_eq_extractLsb' (by omega), setWidth_extractLsb'_of_mask h]

theorem setWidth_ofBool_of_mask {w : Nat} {x : BitVec w} (h : x &&& ~~~((BitVec.allOnes 1).setWidth w) = 0) :
    (BitVec.ofBool (x.getLsbD 0)).setWidth w = x := by
  have hbit : BitVec.ofBool (x.getLsbD 0) = x.extractLsb' 0 1 := by
    ext k hk
    grind
  rw [hbit, setWidth_extractLsb'_of_mask h]

theorem bOf_setmode_ite (v : Bool) : bOf (.setmode (if v then .tx else .rx)) = (BitVec.ofBool v).setWidth 32 := by
  cases v <;> rfl

theorem aOf_lwait_ite (v : Bool) (t : Half) : aOf (.lwait (if v then .polled else .single) t) = (BitVec.ofBool v).setWidth 8 := by
  cases v <;> rfl

/-- AXFLG's field `b` (44_ax25_codec.md R208): operand bits 7 and 0 alone. -/
theorem axflg_field_of_flags {f : Byte} (h : f &&& 0x7E = 0) : f.setWidth 32 &&& ~~~(0x81 : Word) = 0 := by
  revert f; decide

theorem axflg_flags_of_field {b : Word} (h : b &&& ~~~(0x81 : Word) = 0) :
    b.extractLsb' 0 8 &&& 0x7E = 0 ∧ (b.extractLsb' 0 8).setWidth 32 = b := by
  have within (m : Word) : b &&& (~~~0x81 &&& m) = 0 := by rw [← BitVec.and_assoc, h]; exact BitVec.zero_and
  refine ⟨?_, setWidth_extractLsb'_of_mask (within (~~~0xFF))⟩
  calc b.extractLsb' 0 8 &&& 0x7E = (b &&& (~~~0x81 &&& 0x7E)).extractLsb' 0 8 := by
        rw [BitVec.extractLsb'_and, BitVec.extractLsb'_and]; rfl
    _ = 0 := by rw [within]; rfl

/-! ### Decoding an encoded instruction -/

theorem decode_encode_of_wellFormed {i : Instr} (h : WellFormed i = true) : decode (encode i) = .ok i := by
  rw [decode_encode]
  cases i with
  | nop | sreset | clkstop | require | release | rbnext | rbget | rbeof | rbreset | rblast | capstop | txstart | strclr | strget
  | axenc | axdec | s2d | axbclr | axbget | lpbclr | lpoll | lrssi | lpktst => rfl
  | setmode m => cases m <;> rfl
  | ptt v | capstart v | d2s v => cases v <;> rfl
  | rdreg idx | s2a idx | a2s idx | axrd idx => exact operands_ok (and_not_allOnes idx) BitVec.zero_and rfl
  | wrreg idx v => exact operands_ok (and_not_allOnes idx) (and_not_allOnes v) rfl
  | lsetfreq v => exact operands_ok BitVec.zero_and (and_not_allOnes v) rfl
  | rbput v | txqpush v | strput v | axbput v | lpbput v | lpbrd v | lsend v | lsetpwr v | evclr v | lrreg v | lrecv v | lsetrx v
  | axndigi v =>
    exact operands_ok BitVec.zero_and (setWidth_and_not_mask v) (by simp only [bOf, extractLsb'_setWidth_low, Nat.reduceLeDiff])
  | axssid a v | lwcmd a v | lwbuf a v | lrbuf a v =>
    exact operands_ok (and_not_allOnes a) (setWidth_and_not_mask v)
      (by simp only [aOf, bOf, extractLsb'_setWidth_low, Nat.reduceLeDiff])
  | axflg a f =>
    exact operands_ok (and_not_allOnes a) (axflg_field_of_flags (eq_of_beq h))
      (congrArg (Instr.axflg a) (extractLsb'_setWidth_low f (by decide)))
  | axctl c p =>
    exact operands_ok BitVec.zero_and (setWidth_and_not_mask (c ++ p))
      (congrArg₂ Instr.axctl (extractLsb'_high_setWidth_append c p (by decide)) (extractLsb'_low_setWidth_append c p (by decide)))
  | lwreg c p =>
    exact operands_ok BitVec.zero_and (setWidth_and_not_mask (c ++ p))
      (congrArg₂ Instr.lwreg (extractLsb'_high_setWidth_append c p (by decide)) (extractLsb'_low_setWidth_append c p (by decide)))
  | lrcmd a c p =>
    exact operands_ok (and_not_allOnes a) (setWidth_and_not_mask (c ++ p))
      (congrArg₂ (Instr.lrcmd a) (extractLsb'_high_setWidth_append c p (by decide))
        (extractLsb'_low_setWidth_append c p (by decide)))
  | lwait form t =>
    cases form with
    | single =>
      exact operands_ok BitVec.zero_and (setWidth_and_not_mask t)
        (congrArg₂ Instr.lwait (by simp [aOf]) (extractLsb'_setWidth_low (w := 32) t (by decide)))
    | polled =>
      exact operands_ok (show (1 : Byte) &&& ~~~1 = 0 by decide) (setWidth_and_not_mask t)
        (congrArg₂ Instr.lwait (by simp [aOf]) (extractLsb'_setWidth_low (w := 32) t (by decide)))

/-! ### Encoding a decoded word -/

/-- `op`, `a` and `b` are the fields of the word of the well-formed instruction `i`. -/
def FieldsOf (i : Instr) (op a : Byte) (b : Word) : Prop := WellFormed i = true ∧ opcodeOf i = op ∧ aOf i = a ∧ bOf i = b

theorem fieldsOf_of_operands {op a ma : Byte} {b mb : Word} {i j : Instr} (h : operands op a b ma mb j = .ok i)
    (hj : a &&& ~~~ma = 0 → b &&& ~~~mb = 0 → FieldsOf j op a b) : FieldsOf i op a b := by
  obtain ⟨rfl, ha, hb⟩ := operands_inv h
  exact hj ha hb

/-- One line for each row of R104, in the order of the table. -/
theorem fieldsOf_of_decodeFields {op a : Byte} {b : Word} {i : Instr} (h : decodeFields op a b = .ok i) : FieldsOf i op a b := by
  unfold decodeFields at h
  split at h
  · exact fieldsOf_of_operands h fun ha hb => ⟨rfl, rfl, eq_zero_of_no_operand ha, eq_zero_of_no_operand hb⟩
  · exact fieldsOf_of_operands h fun _ hb => ⟨rfl, rfl, rfl, eq_zero_of_no_operand hb⟩
  · exact fieldsOf_of_operands h fun _ _ => ⟨rfl, rfl, rfl, rfl⟩
  · exact fieldsOf_of_operands h fun ha hb => ⟨rfl, rfl, eq_zero_of_no_operand ha, setWidth_extractLsb'_of_mask hb⟩
  · exact fieldsOf_of_operands h fun ha hb => ⟨rfl, rfl, eq_zero_of_no_operand ha, eq_zero_of_no_operand hb⟩
  · exact fieldsOf_of_operands h fun ha hb =>
      ⟨rfl, rfl, eq_zero_of_no_operand ha, (bOf_setmode_ite _).trans (setWidth_ofBool_of_mask hb)⟩
  · exact fieldsOf_of_operands h fun ha hb => ⟨rfl, rfl, eq_zero_of_no_operand ha, eq_zero_of_no_operand hb⟩
  · exact fieldsOf_of_operands h fun ha hb => ⟨rfl, rfl, eq_zero_of_no_operand ha, eq_zero_of_no_operand hb⟩
  · exact fieldsOf_of_operands h fun ha hb => ⟨rfl, rfl, eq_zero_of_no_operand ha, eq_zero_of_no_operand hb⟩
  · exact fieldsOf_of_operands h fun ha hb => ⟨rfl, rfl, eq_zero_of_no_operand ha, setWidth_ofBool_of_mask hb⟩
  · exact fieldsOf_of_operands h fun ha hb => ⟨rfl, rfl, eq_zero_of_no_operand ha, eq_zero_of_no_operand hb⟩
  · exact fieldsOf_of_operands h fun ha hb => ⟨rfl, rfl, eq_zero_of_no_operand ha, setWidth_extractLsb'_of_mask hb⟩
  · exact fieldsOf_of_operands h fun ha hb => ⟨rfl, rfl, eq_zero_of_no_operand ha, eq_zero_of_no_operand hb⟩
  · exact fieldsOf_of_operands h fun ha hb => ⟨rfl, rfl, eq_zero_of_no_operand ha, eq_zero_of_no_operand hb⟩
  · exact fieldsOf_of_operands h fun ha hb => ⟨rfl, rfl, eq_zero_of_no_operand ha, eq_zero_of_no_operand hb⟩
  · exact fieldsOf_of_operands h fun ha hb => ⟨rfl, rfl, eq_zero_of_no_operand ha, eq_zero_of_no_operand hb⟩
  · exact fieldsOf_of_operands h fun ha hb => ⟨rfl, rfl, eq_zero_of_no_operand ha, setWidth_ofBool_of_mask hb⟩
  · exact fieldsOf_of_operands h fun ha hb => ⟨rfl, rfl, eq_zero_of_no_operand ha, eq_zero_of_no_operand hb⟩
  · exact fieldsOf_of_operands h fun ha hb => ⟨rfl, rfl, eq_zero_of_no_operand ha, setWidth_extractLsb'_of_mask hb⟩
  · exact fieldsOf_of_operands h fun ha hb => ⟨rfl, rfl, eq_zero_of_no_operand ha, eq_zero_of_no_operand hb⟩
  · exact fieldsOf_of_operands h fun ha hb => ⟨rfl, rfl, eq_zero_of_no_operand ha, eq_zero_of_no_operand hb⟩
  · exact fieldsOf_of_operands h fun ha hb => ⟨rfl, rfl, eq_zero_of_no_operand ha, setWidth_extractLsb'_of_mask hb⟩
  · exact fieldsOf_of_operands h fun ha hb => ⟨rfl, rfl, eq_zero_of_no_operand ha, eq_zero_of_no_operand hb⟩
  · exact fieldsOf_of_operands h fun _ hb => ⟨rfl, rfl, rfl, eq_zero_of_no_operand hb⟩
  · exact fieldsOf_of_operands h fun _ hb => ⟨rfl, rfl, rfl, eq_zero_of_no_operand hb⟩
  · exact fieldsOf_of_operands h fun _ hb =>
      have ⟨hflags, hfield⟩ := axflg_flags_of_field hb
      ⟨beq_of_eq hflags, rfl, rfl, hfield⟩
  · exact fieldsOf_of_operands h fun _ hb => ⟨rfl, rfl, rfl, eq_zero_of_no_operand hb⟩
  · exact fieldsOf_of_operands h fun _ hb => ⟨rfl, rfl, rfl, setWidth_extractLsb'_of_mask hb⟩
  · exact fieldsOf_of_operands h fun ha hb => ⟨rfl, rfl, eq_zero_of_no_operand ha, setWidth_extractLsb'_of_mask hb⟩
  · exact fieldsOf_of_operands h fun ha hb => ⟨rfl, rfl, eq_zero_of_no_operand ha, setWidth_append_of_mask hb⟩
  · exact fieldsOf_of_operands h fun ha hb => ⟨rfl, rfl, eq_zero_of_no_operand ha, eq_zero_of_no_operand hb⟩
  · exact fieldsOf_of_operands h fun ha hb => ⟨rfl, rfl, eq_zero_of_no_operand ha, eq_zero_of_no_operand hb⟩
  · exact fieldsOf_of_operands h fun ha hb => ⟨rfl, rfl, eq_zero_of_no_operand ha, eq_zero_of_no_operand hb⟩
  · exact fieldsOf_of_operands h fun ha hb => ⟨rfl, rfl, eq_zero_of_no_operand ha, setWidth_ofBool_of_mask hb⟩
  · exact fieldsOf_of_operands h fun ha hb => ⟨rfl, rfl, eq_zero_of_no_operand ha, eq_zero_of_no_operand hb⟩
  · exact fieldsOf_of_operands h fun ha hb => ⟨rfl, rfl, eq_zero_of_no_operand ha, setWidth_extractLsb'_of_mask hb⟩
  · exact fieldsOf_of_operands h fun ha hb => ⟨rfl, rfl, eq_zero_of_no_operand ha, eq_zero_of_no_operand hb⟩
  · exact fieldsOf_of_operands h fun ha hb => ⟨rfl, rfl, eq_zero_of_no_operand ha, eq_zero_of_no_operand hb⟩
  · exact fieldsOf_of_operands h fun ha hb => ⟨rfl, rfl, eq_zero_of_no_operand ha, setWidth_extractLsb'_of_mask hb⟩
  · exact fieldsOf_of_operands h fun ha hb => ⟨rfl, rfl, eq_zero_of_no_operand ha, setWidth_extractLsb'_of_mask hb⟩
  · exact fieldsOf_of_operands h fun _ hb => ⟨rfl, rfl, rfl, setWidth_extractLsb'_of_mask hb⟩
  · exact fieldsOf_of_operands h fun _ hb => ⟨rfl, rfl, rfl, setWidth_append_of_mask hb⟩
  · exact fieldsOf_of_operands h fun ha hb => ⟨rfl, rfl, eq_zero_of_no_operand ha, setWidth_append_of_mask hb⟩
  · exact fieldsOf_of_operands h fun ha hb => ⟨rfl, rfl, eq_zero_of_no_operand ha, setWidth_extractLsb'_of_mask hb⟩
  · exact fieldsOf_of_operands h fun _ hb => ⟨rfl, rfl, rfl, setWidth_extractLsb'_of_mask hb⟩
  · exact fieldsOf_of_operands h fun _ hb => ⟨rfl, rfl, rfl, setWidth_extractLsb'_of_mask hb⟩
  · exact fieldsOf_of_operands h fun ha hb => ⟨rfl, rfl, eq_zero_of_no_operand ha, setWidth_extractLsb'_of_mask hb⟩
  · exact fieldsOf_of_operands h fun ha hb => ⟨rfl, rfl, eq_zero_of_no_operand ha, setWidth_extractLsb'_of_mask hb⟩
  · exact fieldsOf_of_operands h fun ha hb => ⟨rfl, rfl, eq_zero_of_no_operand ha, setWidth_extractLsb'_of_mask hb⟩
  · exact fieldsOf_of_operands h fun ha hb => ⟨rfl, rfl, eq_zero_of_no_operand ha, eq_zero_of_no_operand hb⟩
  · exact fieldsOf_of_operands h fun ha _ => ⟨rfl, rfl, eq_zero_of_no_operand ha, rfl⟩
  · exact fieldsOf_of_operands h fun ha hb => ⟨rfl, rfl, eq_zero_of_no_operand ha, setWidth_extractLsb'_of_mask hb⟩
  · exact fieldsOf_of_operands h fun ha hb => ⟨rfl, rfl, eq_zero_of_no_operand ha, eq_zero_of_no_operand hb⟩
  · exact fieldsOf_of_operands h fun ha hb => ⟨rfl, rfl, eq_zero_of_no_operand ha, eq_zero_of_no_operand hb⟩
  · exact fieldsOf_of_operands h fun ha hb =>
      ⟨rfl, rfl, (aOf_lwait_ite _ _).trans (setWidth_ofBool_of_mask ha), setWidth_extractLsb'_of_mask hb⟩
  · injection h

theorem fields_append (w : CmdWord) : opField w ++ aField w ++ bField w = w := by
  unfold opField aField bField
  rw [BitVec.extractLsb'_append_extractLsb'_eq_extractLsb' (by rfl), BitVec.extractLsb'_append_extractLsb'_eq_extractLsb' (by rfl)]
  exact BitVec.extractLsb'_eq_self

/-- A word the decoder accepts is the word of the instruction it answers. -/
theorem wellFormed_encode_of_decode {w : CmdWord} {i : Instr} (h : decode w = .ok i) : WellFormed i = true ∧ encode i = w := by
  obtain ⟨hwf, hop, ha, hb⟩ := fieldsOf_of_decodeFields h
  refine ⟨hwf, ?_⟩
  rw [encode, hop, ha, hb]
  exact fields_append w

end Sys2Proof
end

section
/-! The order of R105: an absent engine, then a disabled ring, are answered before an operation's own rule (00_scope.md R9,
41_ring_buffer.md R130, 42_capture_and_clock.md R150); the rule itself answers once, with a status of its own. -/

namespace Sys2Proof.Machine

/-! ### The engine of an operation -/

theorem isAfskOp_of_isRingOp {i : Instr} (h : isRingOp i = true) : isAfskOp i = true := by
  simp only [isRingOp, isAfskOp, Bool.or_eq_true, Bool.and_eq_true, decide_eq_true_eq] at h ⊢
  bv_omega

theorem isLoraOp_of_isAfskOp {i : Instr} (h : isAfskOp i = true) : isLoraOp i = false := by
  simp only [isLoraOp, isAfskOp, Bool.or_eq_true, Bool.and_eq_true, decide_eq_true_eq, beq_iff_eq, decide_eq_false_iff_not] at h ⊢
  bv_omega

theorem builtIn_of_isAfskOp {i : Instr} (h : isAfskOp i = true) (b : Build) : builtIn i b = true ↔ b.backend = .afsk := by
  unfold builtIn
  cases b.backend <;> simp [h, isLoraOp_of_isAfskOp h]

theorem isAfskOp_of_isLoraOp {i : Instr} (h : isLoraOp i = true) : isAfskOp i = false := by
  cases ha : isAfskOp i with
  | false => rfl
  | true => rw [isLoraOp_of_isAfskOp ha] at h; exact absurd h Bool.false_ne_true

theorem builtIn_of_isLoraOp {i : Instr} (h : isLoraOp i = true) (b : Build) : builtIn i b = true ↔ b.backend = .lora := by
  unfold builtIn
  cases b.backend <;> simp [h, isAfskOp_of_isLoraOp h]

theorem builtIn_of_both {i : Instr} (ha : isAfskOp i = false) (hl : isLoraOp i = false) (b : Build) : builtIn i b = true := by
  unfold builtIn
  cases b.backend <;> simp [ha, hl]

/-! ### Answers of an operation's own rule -/

/-- A status an operation's own rule may answer: RDREG and WRREG also answer `ST_ABSENT`, for a register of the other build (R301,
R302). -/
def OwnStatus (i : Instr) (st : Status) : Prop :=
  st ≠ .illegal ∧ st ≠ .disabled ∧ (st = .absent → (∃ idx, i = .rdreg idx) ∨ ∃ idx v, i = .wrreg idx v)

/-- The outcome is a next state with one response, and its status is `i`'s own. -/
def Runs (i : Instr) (k : Result) : Prop := ∃ t r, k = .next t ∧ t.out.rsp = some r ∧ OwnStatus i r.st

theorem OwnStatus.ok {i : Instr} : OwnStatus i .ok := ⟨nofun, nofun, nofun⟩
theorem OwnStatus.busy {i : Instr} : OwnStatus i .busy := ⟨nofun, nofun, nofun⟩
theorem OwnStatus.full {i : Instr} : OwnStatus i .full := ⟨nofun, nofun, nofun⟩
theorem OwnStatus.empty {i : Instr} : OwnStatus i .empty := ⟨nofun, nofun, nofun⟩
theorem OwnStatus.range {i : Instr} : OwnStatus i .range := ⟨nofun, nofun, nofun⟩
theorem OwnStatus.absent_rdreg {idx : Byte} : OwnStatus (.rdreg idx) .absent := ⟨nofun, nofun, fun _ => .inl ⟨idx, rfl⟩⟩
theorem OwnStatus.absent_wrreg {idx : Byte} {v : Word} : OwnStatus (.wrreg idx v) .absent :=
  ⟨nofun, nofun, fun _ => .inr ⟨idx, v, rfl⟩⟩

theorem Runs.respond {i : Instr} {st : Status} (h : OwnStatus i st) (s : State) (v : Word) : Runs i (s.respond st v) :=
  ⟨_, _, rfl, rfl, h⟩

theorem Runs.ok {i : Instr} {s : State} {v : Word} : Runs i (s.respond .ok v) := .respond .ok s v

theorem Runs.refuse {i : Instr} {s : State} {st : Status} (h : OwnStatus i st) : Runs i (s.refuse st) := .respond h s 0

theorem Runs.ite {i : Instr} {c : Prop} [Decidable c] {k k' : Result} (h : Runs i k) (h' : Runs i k') :
    Runs i (if c then k else k') := by
  split <;> assumption

/-! ### The tests of R105, then the operation -/

/-- What R105 says of an accepted word of `i`: which refusal comes first, or the operation's own answer. -/
structure AnswersInOrder (i : Instr) (s : State) : Prop where
  absent : builtIn i s.build = false → exec i s = .next (s.withRsp .absent 0)
  disabled : builtIn i s.build = true → isRingOp i = true → s.ring.rbEnabled = false → exec i s = .next (s.withRsp .disabled 0)
  runs : builtIn i s.build = true → (isRingOp i = true → s.ring.rbEnabled = true) → Runs i (exec i s)

namespace AnswersInOrder

variable {i : Instr} {s : State} {k : Result}

/-- An operation of both builds is gated by nothing. -/
theorem inBoth (ha : isAfskOp i = false) (hl : isLoraOp i = false) (h : Runs i (exec i s)) : AnswersInOrder i s where
  absent hb := absurd hb (by simp [builtIn_of_both ha hl])
  disabled _ hr := absurd (isAfskOp_of_isRingOp hr) (by simp [ha])
  runs _ _ := h

/-- The AFSK engine is tested first (R9). -/
theorem inAfsk (ha : isAfskOp i = true) (hr : isRingOp i = false) (h : exec i s = onAfsk s k) (hk : Runs i k) :
    AnswersInOrder i s where
  absent hb := h.trans (onAfsk_absent fun he => by simp [(builtIn_of_isAfskOp ha _).2 he] at hb)
  disabled _ hr' := absurd hr' (by simp [hr])
  runs hb _ := by rwa [h, onAfsk_built ((builtIn_of_isAfskOp ha _).1 hb)]

/-- The LoRa engine is tested first (R9, R240). -/
theorem inLora (hl : isLoraOp i = true) (h : exec i s = onLora s k) (hk : Runs i k) : AnswersInOrder i s where
  absent hb := h.trans (onLora_absent fun he => by simp [(builtIn_of_isLoraOp hl _).2 he] at hb)
  disabled _ hr := absurd (isAfskOp_of_isRingOp hr) (by simp [isAfskOp_of_isLoraOp hl])
  runs hb _ := by rwa [h, onLora_built ((builtIn_of_isLoraOp hl _).1 hb)]

/-- The AFSK engine is tested first, then the ring (R130, R150). -/
theorem inRing (hr : isRingOp i = true) (h : exec i s = onRing s k) (hk : Runs i k) : AnswersInOrder i s where
  absent hb :=
    h.trans (onAfsk_absent fun he => by simp [(builtIn_of_isAfskOp (isAfskOp_of_isRingOp hr) _).2 he] at hb)
  disabled hb _ he := h.trans (onRing_disabled ((builtIn_of_isAfskOp (isAfskOp_of_isRingOp hr) _).1 hb) he)
  runs hb he := by rwa [h, onRing_enabled ((builtIn_of_isAfskOp (isAfskOp_of_isRingOp hr) _).1 hb) (he hr)]

end AnswersInOrder

/-! ### Operations whose answer is chosen by a match -/

theorem execRdreg_runs (idx : Byte) (s : State) : Runs (.rdreg idx) (execRdreg idx s) := by
  unfold execRdreg
  cases Reg.ofIndex idx with
  | none => exact .refuse .range
  | some r => exact .ite .ok (.refuse .absent_rdreg)

theorem execWrreg_runs (idx : Byte) (v : Word) (s : State) : Runs (.wrreg idx v) (execWrreg idx v s) := by
  unfold execWrreg
  cases Reg.ofIndex idx with
  | none => exact .refuse .range
  | some r =>
    refine .ite ?_ (.refuse .absent_wrreg)
    cases r.writeMask? with
    | none => exact .refuse .range
    | some m => exact .ite .ok (.refuse .range)

/-- The answer of an operation on the address record of an index: `ST_RANGE` where there is none (R206 to R209). -/
theorem addrAt_runs {i : Instr} (s : State) (A? : Option Ax25Address) {k : Ax25Address → Result} (hk : ∀ A, Runs i (k A)) :
    Runs i (match A? with | none => s.refuse .range | some A => k A) := by
  cases A? with
  | none => exact .refuse .range
  | some A => exact hk A

theorem execAxenc_runs (s : State) : Runs .axenc (execAxenc s) := by
  unfold execAxenc
  obtain ⟨stored, t⟩ := axbEmitAll (headerBytes s) s
  cases stored with
  | true => exact .ok
  | false => exact .respond .full _ _

theorem execLpoll_gated (s : State) : ∃ k, execLpoll s = onLora s k ∧ Runs .lpoll k := by
  refine ⟨_, rfl, ?_⟩
  obtain ⟨irq, t⟩ := getIrq s
  cases hm : t.lora.loraMode with
  | standby => simp only [hm]; exact .ok
  | rx => simp only [hm]; exact .ite .ok (.ite .ok .ok)
  | tx => simp only [hm]; exact .ite .ok .ok

/-! ### Every operation -/

/-- The gate of each operation, and the answers its own rule can give. -/
theorem answersInOrder (i : Instr) (s : State) : AnswersInOrder i s := by
  cases i with
  | nop | evclr | sreset | require | strclr | s2d | d2s | axndigi | axctl | axbclr | axdec => exact .inBoth rfl rfl .ok
  | release => exact .inBoth rfl rfl (.ite .ok .ok)
  | rdreg idx => exact .inBoth rfl rfl (execRdreg_runs idx s)
  | wrreg idx v => exact .inBoth rfl rfl (execWrreg_runs idx v s)
  | strput => exact .inBoth rfl rfl (.ite (.refuse .full) .ok)
  | strget | axbget => exact .inBoth rfl rfl (.ite (.refuse .empty) .ok)
  | s2a => exact .inBoth rfl rfl (.ite (.refuse .range) .ok)
  | a2s | axssid | axflg | axrd => exact .inBoth rfl rfl (addrAt_runs s _ fun _ => .ok)
  | axbput => exact .inBoth rfl rfl (.ite .ok (.refuse .full))
  | axenc => exact .inBoth rfl rfl (execAxenc_runs s)
  | setmode | clkstop | ptt => exact .inAfsk rfl rfl rfl .ok
  | txqpush => exact .inAfsk rfl rfl rfl (.ite (.refuse .full) .ok)
  | txstart => exact .inAfsk rfl rfl rfl (.ite .ok (.ite .ok .ok))
  | rbnext | rbput | rblast | capstart => exact .inRing rfl rfl (.ite (.refuse .busy) .ok)
  | rbget | rbeof | rbreset | capstop => exact .inRing rfl rfl .ok
  | lpbclr | lwreg | lrreg | lrbuf | lsetrx | lsetfreq | lsetpwr | lrssi | lpktst => exact .inLora rfl rfl .ok
  | lpbput => exact .inLora rfl rfl (.ite (.refuse .full) .ok)
  | lpbrd | lwcmd | lrcmd | lwbuf | lsend | lwait => exact .inLora rfl rfl (.ite (.refuse .range) .ok)
  | lrecv => exact .inLora rfl rfl (.ite .ok (.ite .ok .ok))
  | lpoll =>
    obtain ⟨k, h, hk⟩ := execLpoll_gated s
    exact .inLora rfl h hk

/-! ### Command words -/

theorem runWord_of_no_instr {w : CmdWord} (s : State) (h : ∀ i, WellFormed i = true → encode i ≠ w) :
    runWord w s = .next (s.withRsp .illegal 0) := by
  unfold runWord
  cases hd : decode w with
  | ok i =>
    obtain ⟨hwf, he⟩ := wellFormed_encode_of_decode hd
    exact absurd he (h i hwf)
  | error _ => rfl

theorem runWord_encode {i : Instr} (h : WellFormed i = true) (s : State) : runWord (encode i) s = exec i s := by
  unfold runWord
  rw [decode_encode_of_wellFormed h]

/-- Settles O4: the words without an operation by the decoder's inverse, the others by the gates each operation stands behind. -/
theorem commandDecodeOrder : Obligations.CommandDecodeOrder := by
  unfold Obligations.CommandDecodeOrder
  refine fun w s => ⟨runWord_of_no_instr s, fun i hwf he => ?_⟩
  subst he
  obtain ⟨habsent, hdisabled, hruns⟩ := answersInOrder i s
  rw [runWord_encode hwf]
  exact ⟨habsent, hdisabled, fun hb hr => ⟨rfl, hruns hb hr⟩⟩

end Sys2Proof.Machine
end

section
/-! The derived ring functions (41_ring_buffer.md R25) over the integer modulus of R10. A ring with a cell makes the modulus
nonnegative, so the cursor difference kept as a natural number is the integer one. -/

namespace Sys2Proof.Machine

theorem natCast_cursorDiff {n : Nat} (hn : 0 < n) (a b : Nat) : (cursorDiff n a b : Int) = ((a : Int) - b) % n := by
  have hnonneg : 0 ≤ ((a : Int) - b) % n := Int.emod_nonneg _ (by omega)
  exact Int.toNat_of_nonneg hnonneg

theorem cursorDiff_lt_cursorDiff_iff {n : Nat} (hn : 0 < n) (a b c d : Nat) :
    cursorDiff n a b < cursorDiff n c d ↔ ((a : Int) - b) % n < ((c : Int) - d) % n := by
  rw [← natCast_cursorDiff hn, ← natCast_cursorDiff hn, Int.ofNat_lt]

theorem State.natCast_consumed {s : State} (hn : 0 < s.build.ringCap) :
    (s.consumed : Int) = ((s.ring.readCursor : Int) - s.ring.committedFrameStart) % s.build.ringCap :=
  natCast_cursorDiff hn _ _

theorem State.inNewer_iff {s : State} (hn : 0 < s.build.ringCap) (c : Nat) :
    s.inNewer c = true ↔
      ((c : Int) - s.committedEnd) % s.build.ringCap < ((s.ring.writeCursor : Int) - s.committedEnd) % s.build.ringCap :=
  decide_eq_true_iff.trans (cursorDiff_lt_cursorDiff_iff hn _ _ _ _)

/-- Settles O14: `Unread` and `CommittedEnd` are the spec's formulas as written; `Consumed` and `InNewer` by the integer value of the
cursor difference. -/
theorem ringFunctionFormulas : Obligations.RingFunctionFormulas := by
  unfold Obligations.RingFunctionFormulas
  exact fun s hn => ⟨State.natCast_consumed hn, rfl, rfl, State.inNewer_iff hn⟩

end Sys2Proof.Machine
end

section
/-! The inspection of a returned status byte (30_encoding.md R117): one equation for each outcome, in the order the tests are made,
and the two bus-failure bytes under the chip constants of R118, which have no outcome in the masked sub-field. -/

namespace Sys2Proof.Machine

section
variable {c : ChipTable} {b : Byte}

theorem inspect_eq_timeout (ht : b &&& c.statusMask = c.stCmdTimeout) : inspect c b = .timeout :=
  if_pos ht

theorem inspect_eq_invalid (ht : b &&& c.statusMask ≠ c.stCmdTimeout) (hi : b &&& c.statusMask = c.stCmdInvalid) :
    inspect c b = .invalid :=
  (if_neg ht).trans (if_pos hi)

theorem inspect_eq_failed (ht : b &&& c.statusMask ≠ c.stCmdTimeout) (hi : b &&& c.statusMask ≠ c.stCmdInvalid)
    (hf : b &&& c.statusMask = c.stCmdFailed) : inspect c b = .failed :=
  (if_neg ht).trans ((if_neg hi).trans (if_pos hf))

theorem inspect_of_no_masked_outcome (ht : b &&& c.statusMask ≠ c.stCmdTimeout) (hi : b &&& c.statusMask ≠ c.stCmdInvalid)
    (hf : b &&& c.statusMask ≠ c.stCmdFailed) : inspect c b = if b = 0x00 ∨ b = 0xFF then .busFail else .ok :=
  (if_neg ht).trans ((if_neg hi).trans (if_neg hf))

end

/-- The default mask leaves 0x00 and 0x0E of the two bus-failure bytes, and neither is a masked outcome. -/
theorem default_no_masked_outcome_of_busFail_byte {b : Byte} (hb : b = 0x00 ∨ b = 0xFF) :
    let c : ChipTable := {}
    b &&& c.statusMask ≠ c.stCmdTimeout ∧ b &&& c.statusMask ≠ c.stCmdInvalid ∧ b &&& c.statusMask ≠ c.stCmdFailed := by
  obtain rfl | rfl := hb
  · decide
  · decide

/-- Settles O39: one equation of `inspect` for each clause, and the default constants on the two bus-failure bytes. -/
theorem inspectFormula : Obligations.InspectFormula := by
  unfold Obligations.InspectFormula
  intro c b
  refine ⟨fun ht => ?timeout, fun ht hi => ?invalid, fun ht hi hf => ?failed, fun ht hi hf => ?unmasked, fun hc hb => ?default⟩
  case timeout => rw [inspect_eq_timeout ht]; rfl
  case invalid => rw [inspect_eq_invalid ht hi]; rfl
  case failed => rw [inspect_eq_failed ht hi hf]; rfl
  case unmasked => rw [inspect_of_no_masked_outcome ht hi hf, apply_ite LoraOutcome.code]; rfl
  case default => subst hc; exact default_no_masked_outcome_of_busFail_byte hb

end Sys2Proof.Machine
end

section
/-! The conditioning of a raw sample (42_capture_and_clock.md R153) in the integers: `asr` is floor division, `sat8` is read back as
the clamp, and with the reset values of `dcOffset` and `scaleShift` every 12-bit sample lies inside the clamp. -/

namespace Sys2Proof.Machine

theorem asr_eq_fdiv (i : Int) (k : Nat) : asr i k = i.fdiv (2 ^ k) := by
  rw [Int.fdiv_eq_ediv_of_nonneg i (by positivity), asr, Nat.cast_pow, Nat.cast_ofNat]

theorem toInt_sat8 (i : Int) : (sat8 i).toInt = max (-128) (min 127 i) :=
  BitVec.toInt_ofInt_eq_self (by decide) (le_max_left _ _) (by omega)

theorem toInt_sat8_of_mem {i : Int} (hlo : -128 ≤ i) (hhi : i ≤ 127) : (sat8 i).toInt = i := by
  rw [toInt_sat8, min_eq_right hhi, max_eq_right hlo]

theorem condition_eq_sat8_fdiv (dc : Half) (shift : BitVec 4) (raw : BitVec 12) :
    condition dc shift raw = sat8 (((raw.toNat : Int) - dc.toNat).fdiv (2 ^ shift.toNat)) :=
  congrArg sat8 (asr_eq_fdiv _ _)

/-- The 12-bit width of a sample keeps its quotient at the reset values within the signed byte. -/
theorem reset_quotient_mem (raw : BitVec 12) :
    -128 ≤ ((raw.toNat : Int) - 2048).fdiv 16 ∧ ((raw.toNat : Int) - 2048).fdiv 16 ≤ 127 := by
  have hwidth : raw.toNat < 4096 := raw.isLt
  rw [Int.fdiv_eq_ediv_of_nonneg _ (by decide)]
  omega

theorem toInt_condition_reset (raw : BitVec 12) : (condition 2048 4 raw).toInt = ((raw.toNat : Int) - 2048).fdiv 16 := by
  obtain ⟨hlo, hhi⟩ := reset_quotient_mem raw
  exact (congrArg BitVec.toInt (condition_eq_sat8_fdiv 2048 4 raw)).trans (toInt_sat8_of_mem hlo hhi)

/-- Settles O18: floor division and clamp for all operands; at the reset values the unclamped quotient, which the four samples of
R153 evaluate. -/
theorem conditionFormula : Obligations.ConditionFormula := by
  unfold Obligations.ConditionFormula
  refine ⟨fun dc shift raw => ?formula, toInt_condition_reset, ?lowest, ?highest, ?offset, ?belowOffset⟩
  case formula => rw [condition_eq_sat8_fdiv, toInt_sat8]
  case lowest => exact toInt_condition_reset 0
  case highest => exact toInt_condition_reset 4095
  case offset => exact toInt_condition_reset 2048
  case belowOffset => exact toInt_condition_reset 2047

end Sys2Proof.Machine
end

section
/-! What an address string parses to (44_ax25_codec.md R204): the spaces in front are dropped, the callsign part ends at the first
hyphen or with the string, and the SSID digits, reduced at every digit, have the value of the whole digit string modulo 16. -/

namespace Sys2Proof.Machine

theorem Callsign.toList_ofList (l : List Byte) : (Callsign.ofList l).toList = (l ++ List.replicate 6 0x20).take 6 := by
  match l with
  | [] | [_] | [_, _] | [_, _, _] | [_, _, _, _] | [_, _, _, _, _] | _ :: _ :: _ :: _ :: _ :: _ :: _ => rfl

theorem isDigitChar_iff (c : Byte) : isDigitChar c = true ↔ 0x30 ≤ c ∧ c ≤ 0x39 := by
  simp [isDigitChar]

/-- Reducing modulo 16 at every digit and once at the end come to the same. -/
theorem digitsSsid_eq_decimalValue_mod (ds : List Byte) : digitsSsid ds = decimalValue ds % 16 := by
  have reduced (acc : Nat) : ds.foldl (fun acc d => (acc * 10 + (d.toNat - 0x30)) % 16) (acc % 16)
      = ds.foldl (fun acc d => acc * 10 + (d.toNat - 0x30)) acc % 16 := by
    induction ds generalizing acc with
    | nil => rfl
    | cons d ds ih =>
      rw [List.foldl_cons, List.foldl_cons, ← ih]
      congr 1
      omega
  exact reduced 0

/-- Characters up to the first that fails a test. -/
theorem takeWhile_append_of_head {α : Type} {p : α → Bool} {l more : List α} (hl : ∀ a ∈ l, p a = true)
    (hm : ∀ a, more.head? = some a → p a = false) : (l ++ more).takeWhile p = l := by
  rw [List.takeWhile_append_of_pos hl]
  cases more with
  | nil => simp
  | cons a more => simp [hm a rfl]

theorem dropWhile_append_of_head {α : Type} {p : α → Bool} {l more : List α} (hl : ∀ a ∈ l, p a = true)
    (hm : ∀ a, more.head? = some a → p a = false) : (l ++ more).dropWhile p = more := by
  rw [List.dropWhile_append_of_pos hl]
  cases more with
  | nil => rfl
  | cons a more => simp [hm a rfl]

section
variable {n : Nat} {call : List Byte}

theorem dropWhile_spaces {t : List Byte} (ht : t.head? ≠ some 0x20) :
    (List.replicate n (0x20 : Byte) ++ t).dropWhile (· == 0x20) = t :=
  dropWhile_append_of_head (fun _ ha => by simp [List.eq_of_mem_replicate ha]) fun a ha => by
    rw [ha] at ht
    simpa using ht

/-- A string without a hyphen. -/
theorem parseAddr_of_call (hc : ∀ c ∈ call, c ≠ 0x2D) (hs : call.head? ≠ some 0x20) :
    parseAddr (List.replicate n 0x20 ++ call) = (Callsign.ofList (call.map normChar), 0) := by
  have hp : ∀ c ∈ call, (c != 0x2D) = true := fun c h => bne_iff_ne.2 (hc c h)
  have htake : call.takeWhile (· != 0x2D) = call := List.takeWhile_eq_self_iff.2 hp
  have hdrop : call.dropWhile (· != 0x2D) = [] := List.dropWhile_eq_nil_iff.2 hp
  simp only [parseAddr, dropWhile_spaces hs, htake, hdrop]
  rfl

/-- A string with a hyphen: the digits right after it are the SSID. -/
theorem parseAddr_of_hyphen {ds more : List Byte} (hc : ∀ c ∈ call, c ≠ 0x2D) (hs : call.head? ≠ some 0x20)
    (hd : ∀ d ∈ ds, 0x30 ≤ d ∧ d ≤ 0x39) (hm : ∀ d, more.head? = some d → ¬ (0x30 ≤ d ∧ d ≤ 0x39)) :
    parseAddr (List.replicate n 0x20 ++ call ++ 0x2D :: (ds ++ more))
      = (Callsign.ofList (call.map normChar), BitVec.ofNat 4 (decimalValue ds)) := by
  have hp : ∀ c ∈ call, (c != 0x2D) = true := fun c h => bne_iff_ne.2 (hc c h)
  have hhyphen : ∀ c, (0x2D :: (ds ++ more)).head? = some c → (c != 0x2D) = false := by simp
  have hspace : (call ++ 0x2D :: (ds ++ more)).head? ≠ some 0x20 := by
    cases call with
    | nil => simp
    | cons c call => exact hs
  have hdigits : (ds ++ more).takeWhile isDigitChar = ds :=
    takeWhile_append_of_head (fun d h => (isDigitChar_iff d).2 (hd d h)) fun d h =>
      Bool.eq_false_iff.2 fun hdigit => hm d h ((isDigitChar_iff d).1 hdigit)
  have hmod (v : Nat) : BitVec.ofNat 4 (v % 16) = BitVec.ofNat 4 v := BitVec.eq_of_toNat_eq (by simp)
  simp only [parseAddr, List.append_assoc, dropWhile_spaces hspace, takeWhile_append_of_head hp hhyphen,
    dropWhile_append_of_head hp hhyphen, hdigits, digitsSsid_eq_decimalValue_mod, hmod]

end

/-- Settles O31: the two shapes of a string, and the callsign as the first six characters of its padded list. -/
theorem parseAddrFormula : Obligations.ParseAddrFormula := by
  unfold Obligations.ParseAddrFormula
  intro n call hc hs
  refine ⟨?call, fun ds more hd hm => ?hyphen⟩
  case call =>
    rw [parseAddr_of_call hc hs]
    exact ⟨Callsign.toList_ofList _, rfl⟩
  case hyphen =>
    intro t
    rw [parseAddr_of_hyphen hc hs hd hm]
    exact ⟨Callsign.toList_ofList _, rfl⟩

end Sys2Proof.Machine
end

section
/-! A codec operation sees the codec's registers and the buffer capacities alone (44_ax25_codec.md R200): it commutes with
`State.graft`, which puts those registers into another state. With the state itself as the other one, this is the frame. -/

namespace Sys2Proof.Machine

/-- `s` with the codec registers of `u`. -/
def State.graft (s u : State) : State := { s with codec := u.codec }

/-- `s` with the codec registers and the response of the state an operation left. -/
def Result.graft (s : State) (k : Result) : Result :=
  match k with
  | .next u => .next { s with codec := u.codec, out.rsp := u.out.rsp }
  | .fault f => .fault f
  | .refused r => .refused r

/-- `s` with its codec registers updated. -/
def State.mapCodec (f : Codec → Codec) (s : State) : State := { s with codec := f s.codec }

@[simp] theorem State.graft_codec (s u : State) : (s.graft u).codec = u.codec := rfl
@[simp] theorem State.graft_build (s u : State) : (s.graft u).build = s.build := rfl
@[simp] theorem State.mapCodec_codec (f : Codec → Codec) (s : State) : (s.mapCodec f).codec = f s.codec := rfl

theorem State.graft_of_codec_eq {s u : State} (h : u.codec = s.codec) : s.graft u = s := by
  rw [State.graft, h]

theorem State.graft_setAddr (s u : State) (i : Nat) (A : Ax25Address) : (s.graft u).setAddr i A = s.graft (u.setAddr i A) := rfl
theorem State.graft_mapCodec (s u : State) (f : Codec → Codec) : (s.graft u).mapCodec f = s.graft (u.mapCodec f) := rfl
theorem State.graft_respond (s u : State) (st : Status) (v : Word) :
    (s.graft u).respond st v = Result.graft s (u.respond st v) := rfl

theorem Result.graft_ite (s : State) (c : Prop) [Decidable c] (k k' : Result) :
    Result.graft s (if c then k else k') = if c then Result.graft s k else Result.graft s k' := apply_ite _ _ _ _

/-! ### Appending and taking -/

theorem axbEmit_build (v : Byte) (u : State) : (axbEmit v u).2.build = u.build := by
  unfold axbEmit
  split <;> rfl

theorem axbEmit_graft {s u : State} (h : s.build.axbCap = u.build.axbCap) (v : Byte) :
    axbEmit v (s.graft u) = ((axbEmit v u).1, s.graft (axbEmit v u).2) := by
  simp only [axbEmit, State.graft_codec, State.graft_build, h]
  split <;> rfl

theorem axbEmitAll_graft {s u : State} (h : s.build.axbCap = u.build.axbCap) (vs : List Byte) :
    axbEmitAll vs (s.graft u) = ((axbEmitAll vs u).1, s.graft (axbEmitAll vs u).2) := by
  induction vs generalizing u with
  | nil => rfl
  | cons v vs ih => simp only [axbEmitAll, axbEmit_graft h, ih (h.trans (congrArg _ (axbEmit_build v u).symm))]

theorem axbTake_at_end {s : State} (h : s.codec.axbLen ≤ s.codec.axbRd) : axbTake s = (0x00, s) := if_pos h

theorem axbTake_before_end {s : State} (h : ¬ s.codec.axbLen ≤ s.codec.axbRd) :
    axbTake s = (Memory.byteAt .axb s.codec.axb s.codec.axbRd, s.mapCodec fun c => { c with axbRd := c.axbRd + 1 }) := if_neg h

theorem axbTake_graft (s u : State) : axbTake (s.graft u) = ((axbTake u).1, s.graft (axbTake u).2) := by
  by_cases h : u.codec.axbLen ≤ u.codec.axbRd
  · rw [axbTake_at_end h, axbTake_at_end (s := s.graft u) h]
  · rw [axbTake_before_end h, axbTake_before_end (s := s.graft u) h]
    rfl

theorem takeAddr_graft (s u : State) : takeAddr (s.graft u) = ((takeAddr u).1, s.graft (takeAddr u).2) := by
  simp only [takeAddr, axbTake_graft]

theorem takePath_graft (s : State) (room count : Nat) (u : State) :
    takePath room count (s.graft u) = ((takePath room count u).1, s.graft (takePath room count u).2) := by
  induction room generalizing count u with
  | zero => rfl
  | succ room ih =>
    simp only [takePath, takeAddr_graft, State.graft_setAddr, ih]
    split <;> rfl

theorem storePath_graft (s : State) (items : List (List Byte)) (i : Nat) (u : State) :
    storePath i items (s.graft u) = s.graft (storePath i items u) := by
  induction items generalizing i u with
  | nil => rfl
  | cons t items ih => simp only [storePath, State.graft_setAddr, ih]

/-! ### The two parts of AXDEC (R218) -/

/-- The addresses: destination, source and, unless the source is flagged last, the digipeaters, with their count. -/
def takeAddresses (s : State) : Nat × State :=
  let (dst, s) := takeAddr s
  let (src, s) := takeAddr (s.setAddr 0 dst)
  if src.flags.getLsbD 0 then (0, s.setAddr 1 src) else takePath 7 0 (s.setAddr 1 src)

/-- The digipeater count found, the control byte, the PID byte where the control byte has one. -/
def takeControl (count : Nat) (s : State) : State :=
  let (ctrl, s) := axbTake (s.mapCodec fun c => { c with axNdigi := BitVec.ofNat 4 count })
  let (pid, s) := if hasPid ctrl then axbTake (s.mapCodec fun c => { c with axCtrl := ctrl })
    else (0x00, s.mapCodec fun c => { c with axCtrl := ctrl })
  s.mapCodec fun c => { c with axPid := pid }

theorem execAxdec_eq (s : State) :
    execAxdec s
      = (takeControl (takeAddresses s).1 (takeAddresses s).2).respond .ok (BitVec.ofNat 32 (takeAddresses s).1) := by
  unfold execAxdec takeAddresses takeControl
  rcases takeAddr s with ⟨dst, s₁⟩
  dsimp only
  rcases takeAddr (s₁.setAddr 0 dst) with ⟨src, s₂⟩
  dsimp only
  rcases (if src.flags.getLsbD 0 = true then (0, s₂.setAddr 1 src) else takePath 7 0 (s₂.setAddr 1 src)) with ⟨count, s₃⟩
  rfl

theorem takeAddresses_graft (s u : State) :
    takeAddresses (s.graft u) = ((takeAddresses u).1, s.graft (takeAddresses u).2) := by
  simp only [takeAddresses, takeAddr_graft, State.graft_setAddr, takePath_graft]
  split <;> rfl

theorem takeControl_graft (s : State) (count : Nat) (u : State) :
    takeControl count (s.graft u) = s.graft (takeControl count u) := by
  simp only [takeControl, State.graft_mapCodec, axbTake_graft]
  split <;> rfl

/-! ### Every operation -/

theorem execStrput_graft {s u : State} (h : s.build.strCap = u.build.strCap) (v : Byte) :
    execStrput v (s.graft u) = Result.graft s (execStrput v u) := by
  simp only [execStrput, State.graft_codec, State.graft_build, h]
  split <;> rfl

theorem execAxbput_graft {s u : State} (h : s.build.axbCap = u.build.axbCap) (v : Byte) :
    execAxbput v (s.graft u) = Result.graft s (execAxbput v u) := by
  simp only [execAxbput, axbEmit_graft h]
  split <;> rfl

theorem execAxenc_graft {s u : State} (h : s.build.axbCap = u.build.axbCap) :
    execAxenc (s.graft u) = Result.graft s (execAxenc u) := by
  have hbytes : headerBytes (s.graft u) = headerBytes u := rfl
  simp only [execAxenc, hbytes, axbEmitAll_graft h, State.graft_respond, State.graft_codec]

theorem execAxdec_graft (s u : State) : execAxdec (s.graft u) = Result.graft s (execAxdec u) := by
  simp only [execAxdec_eq, takeAddresses_graft, takeControl_graft, State.graft_respond]

theorem execS2d_graft (s u : State) : execS2d (s.graft u) = Result.graft s (execS2d u) := by
  have hbytes : strBytes (s.graft u) = strBytes u := rfl
  simp only [execS2d, hbytes, storePath_graft]
  rfl

theorem exec_graft {i : Instr} (hi : isCodecOp i = true) {s u : State} (ha : s.build.axbCap = u.build.axbCap)
    (hs : s.build.strCap = u.build.strCap) : exec i (s.graft u) = Result.graft s (exec i u) := by
  cases i with
  | strclr | axndigi n | axctl c p | axbclr | d2s short => rfl
  | strput v => exact execStrput_graft hs v
  | strget | axbget | s2a idx =>
    simp only [exec, execStrget, execAxbget, execS2a, State.graft_codec, Result.graft_ite]
    rfl
  | a2s idx | axflg idx f | axrd idx | axssid idx v =>
    simp only [exec, execA2s, execAxflg, execAxrd, execAxssid, State.graft_codec]
    cases u.codec.addrAt? idx.toNat <;> rfl
  | axbput v => exact execAxbput_graft ha v
  | axenc => exact execAxenc_graft ha
  | axdec => exact execAxdec_graft s u
  | s2d => exact execS2d_graft s u
  | _ => exact absurd hi Bool.false_ne_true

/-! ### No gate of R105 stops a codec operation -/

theorem isAfskOp_of_isCodecOp {i : Instr} (h : isCodecOp i = true) : isAfskOp i = false := by
  simp only [isCodecOp, isAfskOp, Bool.or_eq_false_iff, Bool.and_eq_true, Bool.and_eq_false_iff, decide_eq_true_eq,
    beq_eq_false_iff_ne, decide_eq_false_iff_not] at h ⊢
  bv_omega

theorem isLoraOp_of_isCodecOp {i : Instr} (h : isCodecOp i = true) : isLoraOp i = false := by
  simp only [isCodecOp, isLoraOp, Bool.and_eq_true, decide_eq_true_eq, decide_eq_false_iff_not] at h ⊢
  bv_omega

theorem isRingOp_of_isCodecOp {i : Instr} (h : isCodecOp i = true) : isRingOp i = false := by
  simp only [isCodecOp, isRingOp, Bool.and_eq_true, Bool.and_eq_false_iff, decide_eq_true_eq, decide_eq_false_iff_not] at h ⊢
  bv_omega

/-! ### Purity and frame -/

/-- Settles O38: the operation's answer from the first state, grafted onto either state. -/
theorem codecIsPure : Obligations.CodecIsPure := by
  unfold Obligations.CodecIsPure
  intro i s₁ s₂ hi hc ha hs
  have hbuilt : builtIn i s₁.build = true := builtIn_of_both (isAfskOp_of_isCodecOp hi) (isLoraOp_of_isCodecOp hi) _
  obtain ⟨u, r, hu, hr, -⟩ := (answersInOrder i s₁).runs hbuilt (by simp [isRingOp_of_isCodecOp hi])
  have grafted {s : State} (hcs : s₁.codec = s.codec) (has : s.build.axbCap = s₁.build.axbCap)
      (hss : s.build.strCap = s₁.build.strCap) : exec i s = .next { s with codec := u.codec, out.rsp := some r } := by
    calc exec i s = exec i (s.graft s₁) := by rw [State.graft_of_codec_eq hcs]
      _ = Result.graft s (.next u) := by rw [exec_graft hi has hss, hu]
      _ = .next { s with codec := u.codec, out.rsp := some r } := by rw [← hr]; rfl
  exact ⟨u.codec, r, grafted rfl rfl rfl, grafted hc ha.symm hs.symm⟩

end Sys2Proof.Machine
end

section
/-! The AX.25 header in the byte buffer (44_ax25_codec.md R215, R218, R220): the addresses AXENC emits as seven-byte chunks, what
AXDEC leaves when the bytes it takes are known, and the two round trips, each of which rests on one chunk being encoded and
decoded. -/

namespace Sys2Proof.Machine

/-! ### Chunks of one length -/

theorem chunk_of_flatten {α : Type} {n : Nat} {ls : List (List α)} (hn : ∀ l ∈ ls, l.length = n) (rest : List α) {k : Nat}
    {l : List α} (hk : ls[k]? = some l) : ((ls.flatten ++ rest).drop (n * k)).take n = l := by
  induction ls generalizing k with
  | nil => simp at hk
  | cons x ls ih =>
    have hx : x.length = n := hn x List.mem_cons_self
    rw [List.flatten_cons, List.append_assoc]
    cases k with
    | zero =>
      obtain rfl : x = l := by simpa using hk
      exact List.take_left' hx
    | succ k =>
      rw [Nat.mul_succ, Nat.add_comm, ← List.drop_drop, List.drop_left' hx]
      exact ih (fun l hl => hn l (List.mem_cons_of_mem x hl)) (by simpa using hk)

theorem flatten_of_chunks {α : Type} {n : Nat} {ls : List (List α)} {bs : List α}
    (hk : ∀ k l, ls[k]? = some l → (bs.drop (n * k)).take n = l) : ls.flatten = bs.take (n * ls.length) := by
  induction ls generalizing bs with
  | nil => simp
  | cons x ls ih =>
    have hx : bs.take n = x := by simpa using hk 0 x rfl
    have hls : ls.flatten = (bs.drop n).take (n * ls.length) := ih fun k l hl => by
      rw [List.drop_drop, Nat.add_comm, ← Nat.mul_succ]
      exact hk (k + 1) l (by simpa using hl)
    rw [List.flatten_cons, List.length_cons, Nat.mul_succ, Nat.add_comm, List.take_add, hx, hls]

/-! ### One address -/

theorem encodeAddr_length (A : Ax25Address) (last : Bool) : (encodeAddr A last).length = 7 := rfl

theorem shiftLeft_ushiftRight_of_7bit : ∀ c : Byte, c &&& 0x80 = 0 → c <<< 1 >>> 1 = c := by decide

theorem ushiftRight_shiftLeft_of_even : ∀ c : Byte, c.getLsbD 0 = false → c >>> 1 <<< 1 = c := by decide

theorem mem_of_reserved_flags_zero : ∀ f : Byte, f &&& 0x7E = 0 → f ∈ ([0, 0x01, 0x80, 0x81] : List Byte) := by decide

theorem wireByte6_fields : ∀ ssid : BitVec 4, ∀ f ∈ ([0, 0x01, 0x80, 0x81] : List Byte),
    let b := wireByte6 { Ax25Address.blank with ssid := ssid, flags := f } (f.getLsbD 0)
    b.extractLsb' 1 4 = ssid ∧ b &&& 0x81 = f := by
  decide

/-- The seven wire bytes of a record in use read back as the record (R220 (a)). -/
theorem decodeAddr_of_encoded {A : Ax25Address} (hcall : A.call.Is7Bit) (hflags : A.flags &&& 0x7E = 0) :
    decodeAddr (A.call.c0 <<< 1) (A.call.c1 <<< 1) (A.call.c2 <<< 1) (A.call.c3 <<< 1) (A.call.c4 <<< 1) (A.call.c5 <<< 1)
      (wireByte6 A (A.flags.getLsbD 0)) = A := by
  have hchars : ∀ c ∈ A.call.toList, c <<< 1 >>> 1 = c := fun c hc => shiftLeft_ushiftRight_of_7bit c (hcall c hc)
  simp only [Callsign.toList, List.forall_mem_cons] at hchars
  obtain ⟨h₀, h₁, h₂, h₃, h₄, h₅, -⟩ := hchars
  obtain ⟨hssid, hflag⟩ : (wireByte6 A (A.flags.getLsbD 0)).extractLsb' 1 4 = A.ssid ∧
      wireByte6 A (A.flags.getLsbD 0) &&& 0x81 = A.flags :=
    wireByte6_fields A.ssid A.flags (mem_of_reserved_flags_zero _ hflags)
  simp only [decodeAddr, h₀, h₁, h₂, h₃, h₄, h₅, hssid, hflag]

theorem wireByte6_of_fields : ∀ b : Byte, b &&& 0x60 = 0x60 →
    wireByte6 { Ax25Address.blank with ssid := b.extractLsb' 1 4, flags := b &&& 0x81 } (b.getLsbD 0) = b := by
  decide

/-- The record read from seven canonical bytes is written as the same bytes (R220 (b)). -/
theorem encodeAddr_of_decoded {b0 b1 b2 b3 b4 b5 b6 : Byte} {last : Bool} (h : canonicalAddress last [b0, b1, b2, b3, b4, b5, b6]) :
    encodeAddr (decodeAddr b0 b1 b2 b3 b4 b5 b6) last = [b0, b1, b2, b3, b4, b5, b6] := by
  obtain ⟨-, heven, hlast⟩ := h
  obtain ⟨hfixed, rfl⟩ := hlast b6 rfl
  have hchar (b : Byte) (hb : b ∈ [b0, b1, b2, b3, b4, b5]) : b >>> 1 <<< 1 = b := ushiftRight_shiftLeft_of_even b (heven b hb)
  have hbyte6 : wireByte6 (decodeAddr b0 b1 b2 b3 b4 b5 b6) (b6.getLsbD 0) = b6 := wireByte6_of_fields b6 hfixed
  rw [encodeAddr, hbyte6]
  simp [decodeAddr, hchar, Callsign.toList]

/-! ### The header AXENC emits (R215) -/

/-- The wire bytes of a path address by address, the final one flagged last. -/
def wirePath (path : List Ax25Address) : List (List Byte) := path.mapIdx fun k A => encodeAddr A (k + 1 == path.length)

theorem wirePath_length (path : List Ax25Address) : (wirePath path).length = path.length := List.length_mapIdx

theorem wirePath_getElem? (path : List Ax25Address) (k : Nat) :
    (wirePath path)[k]? = path[k]?.map fun A => encodeAddr A (k + 1 == path.length) := List.getElem?_mapIdx

theorem length_of_mem_wirePath {path : List Ax25Address} {l : List Byte} (h : l ∈ wirePath path) : l.length = 7 := by
  obtain ⟨k, hk, rfl⟩ := List.mem_mapIdx.1 h
  exact encodeAddr_length _ _

theorem encodePath_eq_flatten (path : List Ax25Address) : encodePath path = (wirePath path).flatten := by
  induction path with
  | nil => rfl
  | cons A path ih =>
    cases path with
    | nil => simp [encodePath, wirePath]
    | cons B path =>
      rw [encodePath, ih]
      simp [wirePath, List.mapIdx_cons]

/-- The addresses of the frame registers that AXENC emits. -/
def framePath (c : Codec) : List Ax25Address := c.addr.toList.take (2 + min c.axNdigi.toNat 7)

theorem framePath_length (c : Codec) : (framePath c).length = 2 + min c.axNdigi.toNat 7 := by
  rw [framePath, List.length_take, Vector.length_toList]
  omega

theorem framePath_of_le {s : State} (h : s.codec.axNdigi.toNat ≤ 7) : framePath s.codec = addressesInUse s := by
  rw [framePath, addressesInUse, Nat.min_eq_left h]

theorem wirePath_flatten_length (path : List Ax25Address) : (wirePath path).flatten.length = 7 * path.length := by
  rw [List.length_flatten, List.map_congr_left fun l hl => length_of_mem_wirePath hl]
  simp [wirePath_length, Nat.mul_comm]

/-- Destination and source are the first two addresses of one path. -/
theorem framePath_eq_cons (s : State) : framePath s.codec = s.codec.addr[0] :: s.codec.addr[1] :: digiPath s := by
  have hlist : s.codec.addr.toList = s.codec.addr[0] :: s.codec.addr[1] :: s.codec.addr.toList.drop 2 := by
    have h₀ : 0 < s.codec.addr.toList.length := by simp
    have h₁ : 1 < s.codec.addr.toList.length := by simp
    rw [← Vector.getElem_toList, ← Vector.getElem_toList, ← List.drop_eq_getElem_cons h₁, ← List.drop_eq_getElem_cons h₀,
      List.drop_zero]
    exacts [h₁, h₀]
  rw [framePath, hlist, Nat.add_comm 2]
  rfl

theorem headerBytes_eq (s : State) :
    headerBytes s = (wirePath (framePath s.codec)).flatten
      ++ ([s.codec.axCtrl] ++ if hasPid s.codec.axCtrl then [s.codec.axPid] else []) := by
  have hpath_nil : digiPath s = [] ↔ digiCount s = 0 := by
    simp [digiPath]
  rw [← encodePath_eq_flatten, framePath_eq_cons, headerBytes]
  cases hd : digiPath s with
  | nil => simp [encodePath, hpath_nil.1 hd]
  | cons A path =>
    have hcount : (digiCount s == 0) = false := beq_eq_false_iff_ne.2 fun h => by simp [hpath_nil.2 h] at hd
    simp [encodePath, hcount]

theorem headerBytes_length (s : State) :
    (headerBytes s).length = 7 * (2 + min s.codec.axNdigi.toNat 7) + 1 + if hasPid s.codec.axCtrl then 1 else 0 := by
  rw [headerBytes_eq, List.length_append, wirePath_flatten_length, framePath_length]
  split <;> rfl

theorem headerBytes_length_le (s : State) : (headerBytes s).length ≤ 65 := by
  rw [headerBytes_length]
  split <;> omega

/-- The bytes after the addresses: control, and PID where there is one. -/
theorem headerBytes_getElem?_tail (s : State) (j : Nat) :
    (headerBytes s)[7 * (2 + min s.codec.axNdigi.toNat 7) + j]?
      = ([s.codec.axCtrl] ++ if hasPid s.codec.axCtrl then [s.codec.axPid] else [])[j]? := by
  have hlen := wirePath_flatten_length (framePath s.codec)
  rw [framePath_length] at hlen
  rw [headerBytes_eq, ← hlen, List.getElem?_append_right (Nat.le_add_right _ _), Nat.add_sub_cancel_left]

/-- `s` with the bytes `h` appended to the byte buffer. -/
def State.axbAppend (s : State) (h : List Byte) : State :=
  s.mapCodec fun c => { c with axb := Memory.writeFrom c.axb c.axbLen h, axbLen := c.axbLen + h.length }

theorem execAxenc_of_room {s : State} (h : s.codec.axbLen + (headerBytes s).length ≤ s.build.axbCap) :
    exec .axenc s = .next ((s.axbAppend (headerBytes s)).withRsp .ok (BitVec.ofNat 32 (headerBytes s).length)) := by
  have hmin : min (headerBytes s).length (s.build.axbCap - s.codec.axbLen) = (headerBytes s).length := by omega
  have hemit := axbEmitAll_spec (headerBytes s) s (by omega)
  simp only [hmin, decide_true, List.take_length] at hemit
  simp only [exec, execAxenc, hemit, Nat.add_sub_cancel_left]
  rfl

/-! ### The header AXDEC takes (R218) -/

/-- What AXDEC finds: the number of digipeaters and the address records it leaves. -/
structure DecodesTo (s : State) (count : Nat) (addr : Vector Ax25Address 9) : Prop where
  count_le  : count ≤ 7
  unflagged : ∀ k, k < count → (takenAddress s (1 + k)).flags.getLsbD 0 = false
  ended     : count = 7 ∨ (takenAddress s (1 + count)).flags.getLsbD 0 = true
  taken     : ∀ i, i < 2 + count → addr[i]? = some (takenAddress s i)
  kept      : ∀ i, 2 + count ≤ i → addr[i]? = s.codec.addr[i]?

/-- `s` after AXDEC but for the response. -/
def State.decoded (s : State) (count : Nat) (addr : Vector Ax25Address 9) : State :=
  s.mapCodec fun c => { c with
    addr := addr
    axNdigi := BitVec.ofNat 4 count
    axCtrl := takenByte s (14 + 7 * count)
    axPid := if hasPid (takenByte s (14 + 7 * count)) then takenByte s (14 + 7 * count + 1) else 0
    axbRd := min c.axbLen (c.axbRd + (14 + 7 * count) + 1 + if hasPid (takenByte s (14 + 7 * count)) then 1 else 0) }

theorem takenAddress_flags (s : State) (i : Nat) :
    (takenAddress s i).flags.getLsbD 0 = (takenByte s (7 * i + 6)).getLsbD 0 := by simp [takenAddress]

/-- `s` with the destination and the source AXDEC takes. -/
def State.endsTaken (s : State) : State := (s.setAddr 0 (takenAddress s 0)).setAddr 1 (takenAddress s 1)

theorem State.endsTaken_addr (s : State) (i : Nat) :
    s.endsTaken.codec.addr[i]? =
      if i = 0 then some (takenAddress s 0) else if i = 1 then some (takenAddress s 1) else s.codec.addr[i]? := by
  simp only [State.endsTaken, State.setAddr, Codec.setAddr, Vector.getElem?_setIfInBounds]
  match i with
  | 0 | 1 | i + 2 => simp

theorem State.endsTaken_addr_of_ge (s : State) {i : Nat} (h : 2 ≤ i) : s.endsTaken.codec.addr[i]? = s.codec.addr[i]? := by
  rw [State.endsTaken_addr, if_neg (by omega), if_neg (by omega)]

theorem takenByte_endsTaken (s : State) (k : Nat) : takenByte s.endsTaken k = takenByte s k := rfl
theorem takenAddress_endsTaken (s : State) (k : Nat) : takenAddress s.endsTaken k = takenAddress s k := rfl

theorem takeAddresses_eq {s : State} (h : s.codec.axbRd ≤ s.codec.axbLen) :
    takeAddresses s =
      if (takenAddress s 1).flags.getLsbD 0 then (0, s.endsTaken.axbAdvance (7 * 2))
      else takePath 7 0 (s.endsTaken.axbAdvance (7 * 2)) := by
  have hdst : takeAddr s = (takenAddress s 0, s.axbAdvance (7 * 1)) := by
    have hs : s.axbAdvance (7 * 0) = s := by simp [State.axbAdvance, h]
    have ht := takeAddr_spec s 0
    rwa [hs] at ht
  have hsrc : takeAddr ((s.axbAdvance (7 * 1)).setAddr 0 (takenAddress s 0))
      = (takenAddress s 1, (s.setAddr 0 (takenAddress s 0)).axbAdvance (7 * 2)) := takeAddr_spec (s.setAddr 0 (takenAddress s 0)) 1
  simp only [takeAddresses, hdst, hsrc]
  rfl

theorem takeAddresses_spec {s : State} (h : s.codec.axbRd ≤ s.codec.axbLen) :
    ∃ count addr, DecodesTo s count addr ∧
      takeAddresses s = (count, (s.mapCodec fun c => { c with addr := addr }).axbAdvance (14 + 7 * count)) := by
  rw [takeAddresses_eq h]
  by_cases hflag : (takenAddress s 1).flags.getLsbD 0 = true
  · rw [if_pos hflag]
    exact ⟨0, s.endsTaken.codec.addr,
      { count_le := by omega
        unflagged := by omega
        ended := .inr hflag
        taken := fun i hi => by
          match i with
          | 0 | 1 => rw [State.endsTaken_addr]; rfl
        kept := fun i hi => s.endsTaken_addr_of_ge hi }, rfl⟩
  · rw [if_neg hflag]
    obtain ⟨m, addr, hm, hunflagged, hended, htaken, hkept, hpath⟩ := takePath_spec 7 0 2 s.endsTaken (by omega)
    simp only [takenByte_endsTaken, takenAddress_endsTaken] at hunflagged hended htaken
    refine ⟨m, addr,
      { count_le := hm
        unflagged := fun k hk => ?unflagged
        ended := ?ended
        taken := fun i hi => ?taken
        kept := fun i hi => ?kept }, ?state⟩
    case unflagged =>
      cases k with
      | zero => simpa using hflag
      | succ k =>
        rw [takenAddress_flags, show 1 + (k + 1) = 2 + k by omega]
        exact hunflagged k hk
    case ended =>
      obtain ⟨h7, -⟩ | ⟨k, rfl, hk⟩ := hended
      · exact .inl h7
      · rw [takenAddress_flags, show 1 + (k + 1) = 2 + k by omega]
        exact .inr hk
    case taken =>
      match i with
      | 0 | 1 => rw [hkept _ (by omega), State.endsTaken_addr]; rfl
      | i + 2 => rw [Nat.add_comm]; exact htaken i (by omega)
    case kept => rw [hkept i (by omega), s.endsTaken_addr_of_ge (by omega)]
    case state =>
      rw [hpath, Nat.zero_add, Nat.mul_add]
      rfl

theorem takeControl_advance (s : State) (count j : Nat) :
    takeControl count (s.axbAdvance j) =
      s.mapCodec fun c => { c with
        axNdigi := BitVec.ofNat 4 count
        axCtrl := takenByte s j
        axPid := if hasPid (takenByte s j) then takenByte s (j + 1) else 0
        axbRd := min c.axbLen (c.axbRd + j + 1 + if hasPid (takenByte s j) then 1 else 0) } := by
  have hctrl : axbTake ((s.axbAdvance j).mapCodec fun c => { c with axNdigi := BitVec.ofNat 4 count })
      = (takenByte s j, (s.mapCodec fun c => { c with axNdigi := BitVec.ofNat 4 count }).axbAdvance (j + 1)) :=
    axbTake_advance (s.mapCodec fun c => { c with axNdigi := BitVec.ofNat 4 count }) j
  have hpid : axbTake (((s.mapCodec fun c => { c with axNdigi := BitVec.ofNat 4 count }).axbAdvance (j + 1)).mapCodec
        fun c => { c with axCtrl := takenByte s j })
      = (takenByte s (j + 1),
          (s.mapCodec fun c => { c with axNdigi := BitVec.ofNat 4 count, axCtrl := takenByte s j }).axbAdvance (j + 2)) :=
    axbTake_advance (s.mapCodec fun c => { c with axNdigi := BitVec.ofNat 4 count, axCtrl := takenByte s j }) (j + 1)
  simp only [takeControl, hctrl, hpid]
  split <;> rfl

theorem execAxdec_spec {s : State} (h : s.codec.axbRd ≤ s.codec.axbLen) :
    ∃ count addr, DecodesTo s count addr ∧ exec .axdec s = .next ((s.decoded count addr).withRsp .ok (BitVec.ofNat 32 count)) := by
  obtain ⟨count, addr, hd, ht⟩ := takeAddresses_spec h
  refine ⟨count, addr, hd, ?_⟩
  simp only [exec, execAxdec_eq, ht, takeControl_advance]
  rfl

/-- The first address flagged last ends the path. -/
theorem DecodesTo.count_eq {s : State} {count n : Nat} {addr : Vector Ax25Address 9} (hd : DecodesTo s count addr) (hn : n ≤ 7)
    (hlast : ∀ k, k ≤ n → (takenAddress s (1 + k)).flags.getLsbD 0 = (k == n)) : count = n := by
  have hle := hd.count_le
  rcases Nat.lt_trichotomy count n with hlt | heq | hgt
  · obtain h7 | hflag := hd.ended
    · omega
    · rw [hlast count (by omega), beq_iff_eq] at hflag
      exact hflag
  · exact heq
  · have hflag := hd.unflagged n hgt
    rw [hlast n le_rfl, beq_self_eq_true] at hflag
    contradiction

theorem DecodesTo.framePath_eq {s : State} {count : Nat} {addr : Vector Ax25Address 9} (hd : DecodesTo s count addr) :
    framePath (s.decoded count addr).codec = (List.range (2 + count)).map (takenAddress s) := by
  have hle := hd.count_le
  have hcount : min (BitVec.ofNat 4 count).toNat 7 = count := by
    rw [BitVec.toNat_ofNat]
    omega
  apply List.ext_getElem?
  intro i
  simp only [framePath, State.decoded, State.mapCodec_codec, hcount, List.getElem?_take, List.getElem?_map]
  by_cases hi : i < 2 + count
  · simp [hi, hd.taken i hi]
  · simp [hi]

/-! ### Known bytes at the read index -/

/-- The bytes AXDEC takes begin with `h`. -/
def TakesBytes (s : State) (h : List Byte) : Prop := ∀ k b, h[k]? = some b → takenByte s k = b

theorem takesBytes_of_bytes {s : State} {h : List Byte} (hlen : s.codec.axbRd + h.length ≤ s.codec.axbLen)
    (hb : Memory.bytes .axb s.codec.axb s.codec.axbRd h.length = h) : TakesBytes s h := by
  intro k b hk
  have hlt : k < h.length := (List.getElem?_eq_some_iff.1 hk).1
  have hbyte := Memory.bytes_getElem? .axb s.codec.axb s.codec.axbRd h.length k
  rw [hb, hk, if_pos hlt, Option.some.injEq] at hbyte
  rw [takenByte, if_pos (by omega), hbyte]

theorem TakesBytes.takenAddress_eq {s : State} {h : List Byte} (hs : TakesBytes s h) {k : Nat} {b0 b1 b2 b3 b4 b5 b6 : Byte}
    (hk : (h.drop (7 * k)).take 7 = [b0, b1, b2, b3, b4, b5, b6]) : takenAddress s k = decodeAddr b0 b1 b2 b3 b4 b5 b6 := by
  have hbyte (j : Nat) (b : Byte) (hj : j < 7) (hb : [b0, b1, b2, b3, b4, b5, b6][j]? = some b) : takenByte s (7 * k + j) = b := by
    rw [← hk, List.getElem?_take_of_lt hj, List.getElem?_drop] at hb
    exact hs _ _ hb
  have h₀ := hbyte 0 b0 (by decide) rfl
  simp only [takenAddress, decodeAddr, Nat.add_zero] at h₀ ⊢
  rw [h₀, hbyte 1 b1 (by decide) rfl, hbyte 2 b2 (by decide) rfl, hbyte 3 b3 (by decide) rfl, hbyte 4 b4 (by decide) rfl,
    hbyte 5 b5 (by decide) rfl, hbyte 6 b6 (by decide) rfl]

theorem TakesBytes.takenAddress_of_encoded {s : State} {h : List Byte} (hs : TakesBytes s h) {k : Nat} {A : Ax25Address}
    (hk : (h.drop (7 * k)).take 7 = encodeAddr A (A.flags.getLsbD 0)) (hcall : A.call.Is7Bit) (hflags : A.flags &&& 0x7E = 0) :
    takenAddress s k = A :=
  (hs.takenAddress_eq hk).trans (decodeAddr_of_encoded hcall hflags)

/-- A canonical chunk is what the address taken from it is written as, and it carries the last flag it should. -/
theorem TakesBytes.encodeAddr_takenAddress {s : State} {h : List Byte} (hs : TakesBytes s h) {k : Nat} {last : Bool}
    (hk : canonicalAddress last ((h.drop (7 * k)).take 7)) :
    encodeAddr (takenAddress s k) last = (h.drop (7 * k)).take 7 ∧ (takenAddress s k).flags.getLsbD 0 = last := by
  obtain ⟨b0, b1, b2, b3, b4, b5, b6, hbytes⟩ :
      ∃ b0 b1 b2 b3 b4 b5 b6, (h.drop (7 * k)).take 7 = [b0, b1, b2, b3, b4, b5, b6] := by
    generalize (h.drop (7 * k)).take 7 = bs at hk
    match bs, hk.1 with
    | [b0, b1, b2, b3, b4, b5, b6], _ => exact ⟨b0, b1, b2, b3, b4, b5, b6, rfl⟩
  rw [hs.takenAddress_eq hbytes, hbytes]
  rw [hbytes] at hk
  refine ⟨encodeAddr_of_decoded hk, ?_⟩
  obtain ⟨-, -, hlast⟩ := hk
  obtain ⟨-, hbit⟩ := hlast b6 rfl
  simpa [decodeAddr] using hbit

/-! ### The round trips (R220) -/

theorem runOps_cons {i : Instr} {is : List Instr} {s t : State} (h : exec i s = .next t) : runOps (i :: is) s = runOps is t := by
  rw [runOps, h]

/-- `s` with an empty byte buffer, but for the response. -/
def State.axbCleared (s : State) : State := s.mapCodec fun c => { c with axbLen := 0, axbRd := 0 }

theorem exec_axbclr (s : State) : exec .axbclr s = .next (s.axbCleared.withRsp .ok 0) := rfl

/-- The bytes appended to a cleared buffer are its content. -/
theorem axbAppend_axbCleared (s : State) (h : List Byte) :
    let u := (s.axbCleared.withRsp .ok 0).axbAppend h
    u.codec.axbRd = 0 ∧ u.codec.axbLen = h.length ∧ Memory.bytes .axb u.codec.axb 0 h.length = h :=
  ⟨rfl, Nat.zero_add _, Memory.bytes_writeFrom .axb _ 0 h⟩

/-- After AXBCLR the whole header fits, and AXENC leaves it alone in the buffer. -/
theorem exec_axenc_axbCleared {s : State} (hcap : 65 ≤ s.build.axbCap) :
    ∃ u, exec .axenc (s.axbCleared.withRsp .ok 0) = .next u ∧ u.codec.axbRd = 0 ∧ u.codec.axbLen = (headerBytes s).length ∧
      Memory.bytes .axb u.codec.axb 0 (headerBytes s).length = headerBytes s := by
  have hroom : 0 + (headerBytes s).length ≤ s.build.axbCap := by
    rw [Nat.zero_add]
    exact (headerBytes_length_le s).trans hcap
  have hheader : headerBytes (s.axbCleared.withRsp .ok 0) = headerBytes s := rfl
  have henc := execAxenc_of_room (s := s.axbCleared.withRsp .ok 0) hroom
  rw [hheader] at henc
  exact ⟨_, henc, axbAppend_axbCleared s (headerBytes s)⟩

theorem takenAddress_of_header {s t : State} (hc : Consistent s) (ht : TakesBytes t (headerBytes s)) {k : Nat} {A : Ax25Address}
    (hA : (addressesInUse s)[k]? = some A) : takenAddress t k = A := by
  have hmem : A ∈ addressesInUse s := List.mem_of_getElem? hA
  have hpath : framePath s.codec = addressesInUse s := framePath_of_le hc.digis
  have hflag : A.flags.getLsbD 0 = (k + 1 == (framePath s.codec).length) := by
    rw [Bool.eq_iff_iff, hc.last k A hA, framePath_length, Nat.min_eq_left hc.digis, beq_iff_eq]
    omega
  refine ht.takenAddress_of_encoded ?_ (hc.chars A hmem) (hc.flags A hmem)
  rw [headerBytes_eq]
  refine chunk_of_flatten (fun _ => length_of_mem_wirePath) _ ?_
  rw [wirePath_getElem?, hflag, hpath, hA]
  rfl

theorem takenByte_of_header_tail {s t : State} (hn : s.codec.axNdigi.toNat ≤ 7) (ht : TakesBytes t (headerBytes s)) {j : Nat}
    {b : Byte} (hb : ([s.codec.axCtrl] ++ if hasPid s.codec.axCtrl then [s.codec.axPid] else [])[j]? = some b) :
    takenByte t (14 + 7 * s.codec.axNdigi.toNat + j) = b := by
  have htail := headerBytes_getElem?_tail s j
  rw [Nat.min_eq_left hn, Nat.mul_add, hb] at htail
  exact ht _ _ htail

theorem addressesInUse_eq_of_header {s t : State} (hc : Consistent s) (ht : TakesBytes t (headerBytes s)) :
    addressesInUse s = (List.range (2 + s.codec.axNdigi.toNat)).map (takenAddress t) := by
  have hdigis := hc.digis
  have hlen : (addressesInUse s).length = 2 + s.codec.axNdigi.toNat := by
    rw [← framePath_of_le hdigis, framePath_length, Nat.min_eq_left hdigis]
  refine List.ext_getElem (by simp [hlen]) fun k hk _ => ?_
  rw [List.getElem_map, List.getElem_range]
  exact (takenAddress_of_header hc ht (List.getElem?_eq_getElem hk)).symm

/-- R220 (a): the registers AXENC wrote out are what AXDEC reads back. -/
theorem roundTrip_registers {s : State} (hc : Consistent s) (hcap : 65 ≤ s.build.axbCap) :
    ∃ t, runOps [.axbclr, .axenc, .axdec] s = some t ∧ addressesInUse t = addressesInUse s ∧
      t.codec.axNdigi = s.codec.axNdigi ∧ t.codec.axCtrl = s.codec.axCtrl ∧ t.codec.axPid = s.codec.axPid := by
  have hdigis := hc.digis
  obtain ⟨u, henc, hrd, hlen, hbytes⟩ := exec_axenc_axbCleared hcap
  have hu : TakesBytes u (headerBytes s) := takesBytes_of_bytes (by omega) (by rwa [hrd])
  obtain ⟨count, addr, hd, hdec⟩ := execAxdec_spec (s := u) (by omega)
  have hpath := addressesInUse_eq_of_header hc hu
  obtain rfl : count = s.codec.axNdigi.toNat := hd.count_eq hdigis fun k hk => by
    have hA : (addressesInUse s)[1 + k]? = some (takenAddress u (1 + k)) := by
      rw [hpath, List.getElem?_map, List.getElem?_range (by omega)]
      rfl
    rw [Bool.eq_iff_iff, hc.last _ _ hA, beq_iff_eq]
    omega
  have hndigi : BitVec.ofNat 4 s.codec.axNdigi.toNat = s.codec.axNdigi := by simp
  have hctrl : takenByte u (14 + 7 * s.codec.axNdigi.toNat) = s.codec.axCtrl := takenByte_of_header_tail hdigis hu (j := 0) rfl
  refine ⟨_, (runOps_cons (exec_axbclr s)).trans ((runOps_cons henc).trans (runOps_cons hdec)), ?_, hndigi,
    hctrl, ?_⟩
  · refine (framePath_of_le (s := u.decoded _ addr) ?_).symm.trans (hd.framePath_eq.trans hpath.symm)
    exact (congrArg BitVec.toNat hndigi).trans_le hdigis
  · simp only [State.withRsp_codec, State.decoded, State.mapCodec_codec, hctrl]
    cases hp : hasPid s.codec.axCtrl with
    | true => exact takenByte_of_header_tail hdigis hu (j := 1) (by rw [hp]; rfl)
    | false => exact (hc.pid hp).symm

/-- The address records AXDEC leaves are written as the chunks they were taken from. -/
theorem wirePath_decoded {s : State} {n : Nat} {h : List Byte} {addr : Vector Ax25Address 9} (hcan : CanonicalHeader n h)
    (hs : TakesBytes s h) (hd : DecodesTo s n addr) :
    (wirePath (framePath (s.decoded n addr).codec)).flatten = h.take (14 + 7 * n) := by
  have hchunk : ∀ k l, (wirePath (framePath (s.decoded n addr).codec))[k]? = some l → (h.drop (7 * k)).take 7 = l := by
    intro k l hl
    rw [wirePath_getElem?, hd.framePath_eq, List.getElem?_map, List.length_map, List.length_range] at hl
    obtain ⟨A, hA, rfl⟩ := Option.map_eq_some_iff.1 hl
    obtain ⟨i, hi, rfl⟩ := Option.map_eq_some_iff.1 hA
    obtain ⟨hk, rfl⟩ := List.getElem?_eq_some_iff.1 hi
    have hlast : (k + 1 == 2 + n) = (k == n + 1) := by
      rw [Bool.eq_iff_iff, beq_iff_eq, beq_iff_eq]
      omega
    rw [List.length_range] at hk
    rw [List.getElem_range, hlast]
    exact (hs.encodeAddr_takenAddress (hcan.addresses k (by omega))).1.symm
  rw [flatten_of_chunks hchunk, wirePath_length, hd.framePath_eq, List.length_map, List.length_range, Nat.mul_add]

/-- After its addresses a canonical header is the control byte and, where that has one, the PID byte. -/
theorem CanonicalHeader.drop_eq {s : State} {n : Nat} {h : List Byte} (hcan : CanonicalHeader n h) (hs : TakesBytes s h) :
    h.drop (14 + 7 * n) = [takenByte s (14 + 7 * n)] ++
      if hasPid (takenByte s (14 + 7 * n)) then [takenByte s (14 + 7 * n + 1)] else [] := by
  have hlen := hcan.length
  have hbyte (k : Nat) (hk : k < h.length) : h[k] = takenByte s k := (hs _ _ (List.getElem?_eq_getElem hk)).symm
  rw [List.drop_eq_getElem_cons (by omega), hbyte]
  rw [List.getD_eq_getElem _ _ (by omega), hbyte] at hlen
  cases hp : hasPid (takenByte s (14 + 7 * n)) with
  | true =>
    rw [hp, if_pos rfl] at hlen
    rw [List.drop_eq_getElem_cons (by omega), hbyte, List.drop_of_length_le (by omega)]
    rfl
  | false =>
    rw [hp, if_neg Bool.false_ne_true] at hlen
    rw [List.drop_of_length_le (by omega)]
    rfl

/-- Decoding a canonical header leaves registers whose header it is. -/
theorem headerBytes_decoded {s : State} {n : Nat} {h : List Byte} {addr : Vector Ax25Address 9} (hcan : CanonicalHeader n h)
    (hs : TakesBytes s h) (hd : DecodesTo s n addr) : headerBytes (s.decoded n addr) = h := by
  have htail : ([(s.decoded n addr).codec.axCtrl]
      ++ if hasPid (s.decoded n addr).codec.axCtrl then [(s.decoded n addr).codec.axPid] else []) = h.drop (14 + 7 * n) := by
    rw [hcan.drop_eq hs]
    cases hp : hasPid (takenByte s (14 + 7 * n)) with
    | true => simp [State.decoded, hp]
    | false => simp [State.decoded, hp]
  rw [headerBytes_eq, wirePath_decoded hcan hs hd, htail, List.take_append_drop]

/-- R220 (b): the header AXDEC read is what AXENC writes back. -/
theorem roundTrip_buffer {s : State} {n : Nat} {h : List Byte} (hcan : CanonicalHeader n h)
    (hlen : s.codec.axbRd + h.length ≤ s.codec.axbLen) (hb : Memory.bytes .axb s.codec.axb s.codec.axbRd h.length = h)
    (hcap : 65 ≤ s.build.axbCap) :
    ∃ t, runOps [.axdec, .axbclr, .axenc] s = some t ∧ t.codec.axbLen = h.length ∧
      Memory.bytes .axb t.codec.axb 0 t.codec.axbLen = h := by
  have hs : TakesBytes s h := takesBytes_of_bytes hlen hb
  obtain ⟨count, addr, hd, hdec⟩ := execAxdec_spec (s := s) (by omega)
  obtain rfl : count = n := hd.count_eq hcan.digis fun k hk => by
    rw [(hs.encodeAddr_takenAddress (hcan.addresses (1 + k) (by omega))).2, Nat.add_comm, Bool.eq_iff_iff, beq_iff_eq, beq_iff_eq]
    omega
  have hheader : headerBytes ((s.decoded count addr).withRsp .ok (BitVec.ofNat 32 count)) = h := headerBytes_decoded hcan hs hd
  obtain ⟨u, henc, -, hulen, hubytes⟩ :=
    exec_axenc_axbCleared (s := (s.decoded count addr).withRsp .ok (BitVec.ofNat 32 count)) hcap
  rw [hheader] at hulen hubytes
  exact ⟨u, (runOps_cons hdec).trans ((runOps_cons (exec_axbclr _)).trans (runOps_cons henc)), hulen, by rwa [hulen]⟩

/-- Settles O37: what one chunk encodes and decodes to, and the header as its chunks with the control and PID bytes. -/
theorem headerRoundTrips : Obligations.HeaderRoundTrips := by
  unfold Obligations.HeaderRoundTrips
  exact ⟨fun _ => roundTrip_registers, fun _ _ _ hcan hlen hb => roundTrip_buffer hcan hlen hb⟩

end Sys2Proof.Machine
end

section
/-! The retry of a write command with one payload byte (45_lora_primitives.md R245, R247, R249): the attempt that the answers of an
idle chip fix, how the retry loop goes on over a run of failed attempts, and how the command ends, at the first good answer or with
its attempts used up. -/

namespace Sys2Proof.Machine

/-! ### Replayed answers -/

/-- A trace in two parts is answered part by part; the converse is `Replay.append`. -/
theorem Replay.of_append {tr tr' : List BusEvent} {e e' : Env} (h : Replay (tr ++ tr') e e') :
    ∃ m, Replay tr e m ∧ Replay tr' m e' := by
  induction tr generalizing e with
  | nil => exact ⟨e, rfl, h⟩
  | cons ev tr ih =>
    cases ev with
    | poll v => exact (ih h.2).imp fun _ hm => ⟨⟨h.1, hm.1⟩, hm.2⟩
    | xfer o i => exact (ih h.2).imp fun _ hm => ⟨⟨h.1, hm.1⟩, hm.2⟩
    | select => exact ih (e := e) h
    | deselect => exact ih (e := e) h
    | pin q v => exact ih (e := e) h

/-- The bracketed attempt of R249, an idle poll before and after: the chip returns `x.1` to the opcode and `x.2` to the payload
byte. -/
def oneByteAttempt (opc p : Byte) (x : Byte × Byte) : List BusEvent :=
  [.poll false, .select, .xfer opc x.1, .xfer p x.2, .deselect, .poll false]

/-- Listed answers, two idle ones and two bytes for each attempt, are what the attempts read; the rest of the lists is left. -/
theorem replay_oneByteAttempts (opc p : Byte) {xs : List (Byte × Byte)} {e : Env} {polls : List Bool} {bytes : List Byte}
    (hbusy : e.busy = List.replicate (2 * xs.length) false ++ polls)
    (hbytes : e.busIn = (xs.flatMap fun x => [x.1, x.2]) ++ bytes) :
    Replay (xs.flatMap (oneByteAttempt opc p)) e { e with busy := polls, busIn := bytes } := by
  induction xs generalizing e with
  | nil =>
    cases e
    simp_all [Replay]
  | cons x xs ih =>
    have hlen : 2 * (x :: xs).length = 2 * xs.length + 1 + 1 := by rw [List.length_cons, Nat.mul_succ]
    rw [hlen, List.replicate_succ, List.replicate_succ] at hbusy
    rw [List.flatMap_cons] at hbytes ⊢
    have hx : Replay (oneByteAttempt opc p x) e
        { e with
          busy := List.replicate (2 * xs.length) false ++ polls
          busIn := (xs.flatMap fun x => [x.1, x.2]) ++ bytes } := by
      simp [oneByteAttempt, Replay, Env.nextBusy, Env.nextByte, hbusy, hbytes]
    exact hx.append (ih rfl rfl)

/-! ### One attempt -/

/-- The sequencer is between transactions and its waits poll at least once. -/
structure ReadyToSend (s : State) : Prop where
  deselected : s.lora.csAsserted = false
  polls : s.lora.busyTimeout.toNat ≠ 0

theorem ReadyToSend.afterBus {s : State} (h : ReadyToSend s) (tr : List BusEvent) (y : Tally) (e : Env) :
    ReadyToSend (s.afterBus tr y e) where
  deselected := (Tally.lora_csAsserted y s.lora).trans h.deselected
  polls := by simpa using h.polls

theorem waitBusy_of_idle {T : Nat} {s : State} (hT : T ≠ 0) (hidle : s.env.nextBusy.1 = false) :
    waitBusy T s = (true, s.afterBus [.poll false] Tally.zero s.env.nextBusy.2) := by
  obtain ⟨T, rfl⟩ := Nat.exists_eq_succ_of_ne_zero hT
  simp [waitBusy, pollBusy_eq, hidle]

theorem sendPayload_singleton (o : Byte) (s : State) :
    sendPayload [o] s =
      (inspect s.build.chip s.env.nextByte.1, s.afterBus [.xfer o s.env.nextByte.1] Tally.zero s.env.nextByte.2) := by
  simp only [sendPayload, busXfer_eq, State.afterBus_build]
  split <;> simp_all

section
variable {opc p : Byte} {pay : List Byte} {x : Byte × Byte} {bad : List (Byte × Byte)} {st : LoraOutcome} {left k w : Nat}
  {tr : List BusEvent} {s t : State} {e : Env}

/-- The chip's answers fix the attempt. -/
theorem writeAttempt_of_replay (hs : ReadyToSend s) (hr : Replay (oneByteAttempt opc p x) s.env e) :
    writeAttempt opc [p] s = (inspect s.build.chip x.2, s.afterBus (oneByteAttempt opc p x) Tally.zero e) := by
  obtain ⟨hidle, hopc, hbyte, hidle', rfl⟩ := hr
  simp only [writeAttempt, waitBusySingle, waitBusy_of_idle hs.polls hidle.symm, busXfer_eq, sendPayload_singleton,
    State.afterBus_afterBus, Tally.seq_zero, bracket_afterBus s hs.deselected _ _ Tally.zero rfl, State.afterBus_env,
    State.afterBus_build, State.afterBus_lora, Tally.zero_lora, selectChip_env, selectChip_build, ← hopc, ← hbyte]
  rw [waitBusy_of_idle hs.polls (s := s.afterBus _ _ _) hidle'.symm, State.afterBus_afterBus]
  rfl

/-! ### The retry loop -/

theorem retryLoop_of_ok (h : writeAttempt opc pay s = (.ok, t)) : retryLoop opc pay left k s = (.ok, k, t) := by
  rw [retryLoop]
  simp only [h, if_true]

theorem retryLoop_zero_of_bad (h : writeAttempt opc pay s = (st, t)) (hbad : st ≠ .ok) :
    retryLoop opc pay 0 k s = (st, k, logWarning t) := by
  rw [retryLoop]
  simp only [h, if_neg hbad]

theorem retryLoop_succ_of_bad (h : writeAttempt opc pay s = (st, t)) (hbad : st ≠ .ok) :
    retryLoop opc pay (left + 1) k s = retryLoop opc pay left (k + 1) (logWarning t) := by
  rw [retryLoop]
  simp only [h, if_neg hbad]

@[simp] theorem Tally.ofWarnings_zero : Tally.ofWarnings 0 = Tally.zero := rfl

theorem logWarning_afterBus : logWarning (s.afterBus tr (Tally.ofWarnings w) e) = s.afterBus tr (Tally.ofWarnings (w + 1)) e := by
  rw [logWarning_eq, State.afterBus_env, State.afterBus_afterBus, List.append_nil]
  rfl

/-- A run of failed attempts, one warning each, leaves the loop with as many attempts fewer. -/
theorem retryLoop_of_bad_run (hs : ReadyToSend s) (hr : Replay (bad.flatMap (oneByteAttempt opc p)) s.env e)
    (hbad : ∀ y ∈ bad, inspect s.build.chip y.2 ≠ .ok) :
    retryLoop opc [p] (bad.length + left) k s =
      retryLoop opc [p] left (k + bad.length)
        (s.afterBus (bad.flatMap (oneByteAttempt opc p)) (Tally.ofWarnings bad.length) e) := by
  induction bad generalizing k s with
  | nil =>
    cases hr
    rw [List.length_nil, Nat.zero_add]
    exact congrArg (retryLoop opc [p] left k) (State.afterBus_nil s).symm
  | cons x bad ih =>
    rw [List.flatMap_cons] at hr ⊢
    obtain ⟨m, hx, hrest⟩ := hr.of_append
    have hfirst := retryLoop_succ_of_bad (left := bad.length + left) (k := k) (writeAttempt_of_replay hs hx)
      (hbad x List.mem_cons_self)
    rw [List.length_cons, Nat.add_right_comm, hfirst, ← Tally.ofWarnings_zero, logWarning_afterBus,
      ih (hs.afterBus ..) hrest fun y hy => hbad y (List.mem_cons_of_mem x hy), State.afterBus_afterBus]
    simp [Tally.seq, Tally.ofWarnings, Nat.add_assoc, Nat.add_comm 1]

/-! ### The command -/

/-- What the command makes of the loop's result (R247). -/
theorem writeCommand_of_retryLoop
    (h : retryLoop opc pay (s.build.maxAttempts - 1) 1 s = (st, k, s.afterBus tr (Tally.ofWarnings w) e)) :
    writeCommand opc pay s = s.afterBus tr (Tally.ofCommand st k w) e := by
  have houtcome (t : State) : { t with lora.lastStatus := st.code, lora.lastAttempts := BitVec.ofNat 8 k } =
      t.afterBus [] { warns := 0, fails := 0, last := some (st, k) } t.env := by
    simp [State.afterBus, Tally.events, Tally.lora]
  have hcommand := congrArg (fun t => if st = .ok then t else logFailure t) (houtcome (s.afterBus tr (Tally.ofWarnings w) e))
  rw [State.afterBus_env, State.afterBus_afterBus] at hcommand
  rw [writeCommand, h]
  refine hcommand.trans ?_
  by_cases hok : st = .ok
  · simp [hok, Tally.seq, Tally.ofWarnings, Tally.ofCommand]
  · simp [hok, logFailure_eq, State.afterBus_afterBus, Tally.seq, Tally.ofWarnings, Tally.ofCommand]

/-- The first good answer ends the command, also on the last attempt allowed. -/
theorem writeCommand_of_bad_run_then_ok (hs : ReadyToSend s) (hm : bad.length < s.build.maxAttempts)
    (hr : Replay ((bad ++ [x]).flatMap (oneByteAttempt opc p)) s.env e) (hbad : ∀ y ∈ bad, inspect s.build.chip y.2 ≠ .ok)
    (hok : inspect s.build.chip x.2 = .ok) :
    writeCommand opc [p] s =
      s.afterBus ((bad ++ [x]).flatMap (oneByteAttempt opc p)) (Tally.ofCommand .ok (bad.length + 1) bad.length) e := by
  refine writeCommand_of_retryLoop ?_
  rw [List.flatMap_append, List.flatMap_singleton] at hr ⊢
  obtain ⟨m, hrun, hx⟩ := hr.of_append
  have hlast := writeAttempt_of_replay (hs.afterBus (bad.flatMap (oneByteAttempt opc p)) (Tally.ofWarnings bad.length) m) hx
  rw [State.afterBus_build, hok, State.afterBus_afterBus, Tally.seq_zero] at hlast
  have hleft : s.build.maxAttempts - 1 = bad.length + (s.build.maxAttempts - 1 - bad.length) := by omega
  rw [hleft, retryLoop_of_bad_run hs hrun hbad, retryLoop_of_ok hlast, Nat.add_comm]

/-- Every attempt allowed fails: the command is given up with the outcome of the last one. -/
theorem writeCommand_of_all_bad (hs : ReadyToSend s) (hm : s.build.maxAttempts = bad.length + 1)
    (hr : Replay ((bad ++ [x]).flatMap (oneByteAttempt opc p)) s.env e)
    (hbad : ∀ y ∈ bad ++ [x], inspect s.build.chip y.2 ≠ .ok) :
    writeCommand opc [p] s =
      s.afterBus ((bad ++ [x]).flatMap (oneByteAttempt opc p))
        (Tally.ofCommand (inspect s.build.chip x.2) (bad.length + 1) (bad.length + 1)) e := by
  obtain ⟨hrunBad, hxBad⟩ := List.forall_mem_append.1 hbad
  refine writeCommand_of_retryLoop ?_
  rw [List.flatMap_append, List.flatMap_singleton] at hr ⊢
  obtain ⟨m, hrun, hx⟩ := hr.of_append
  have hlast := writeAttempt_of_replay (hs.afterBus (bad.flatMap (oneByteAttempt opc p)) (Tally.ofWarnings bad.length) m) hx
  rw [State.afterBus_build, State.afterBus_afterBus, Tally.seq_zero] at hlast
  rw [hm, Nat.add_sub_cancel, ← Nat.add_zero bad.length, retryLoop_of_bad_run hs hrun hrunBad, Nat.add_zero,
    retryLoop_zero_of_bad hlast (hxBad x List.mem_cons_self), logWarning_afterBus, Nat.add_comm]

end

/-! ### LWCMD of one byte (R253) -/

theorem exec_lwcmd_one {s : State} {p : Byte} (opc : Byte) (hb : s.build.backend = .lora) (hl : 1 ≤ s.lora.lpbLen)
    (hp : Memory.byteAt .lpb s.lora.lpb 0 = p) :
    exec (.lwcmd opc 1) s =
      .next ((writeCommand opc [p] s).withRsp .ok (lastOutcome (writeCommand opc [p] s).lora)) := by
  subst hp
  exact (onLora_built hb).trans (if_neg (Nat.not_lt.2 hl))

theorem lastOutcome_ofCommand (st : LoraOutcome) (k w : Nat) (l : Lora) :
    lastOutcome ((Tally.ofCommand st k w).lora l) = (BitVec.ofNat 8 k ++ st.code).setWidth 32 :=
  rfl

/-- The log after a command that succeeded in the end: warnings and no failure. -/
theorem events_ofCommand_ok {w : Nat} (hw : w ≠ 0) (k : Nat) (ev : Events) :
    (Tally.ofCommand .ok k w).events ev = { ev with logWarn := satAdd ev.logWarn w, evt := ev.evt ||| 0x0040 } := by
  simp [Tally.events, Tally.ofCommand, hw]

/-- The log after a command that was given up: warnings and one failure. -/
theorem events_ofCommand_of_bad {st : LoraOutcome} {w : Nat} (hst : st ≠ .ok) (hw : w ≠ 0) (k : Nat) (ev : Events) :
    (Tally.ofCommand st k w).events ev =
      { ev with logWarn := satAdd ev.logWarn w, logFail := satAdd ev.logFail 1, evt := ev.evt ||| 0x00C0 } := by
  simp [Tally.events, Tally.ofCommand, hst, hw, BitVec.or_assoc]

theorem LoraOutcome.code_ne_zero {st : LoraOutcome} (h : st ≠ .ok) : st.code ≠ 0 := by
  cases st with
  | ok => exact absurd rfl h
  | timeout | invalid | failed | busFail => decide

/-- Settles O43: the good answer comes on the fourth attempt, or the tenth attempt, the last one allowed, fails too. -/
theorem retryProperty : Obligations.RetryProperty := by
  unfold Obligations.RetryProperty
  intro s opc p r g bad polls bytes hb hcs hm hT hl hp htr attempt
  have hs : ReadyToSend s := ⟨hcs, fun h => hT (BitVec.eq_of_toNat_eq h)⟩
  rw [exec_lwcmd_one opc hb hl hp]
  refine ⟨fun hlen hbad hok hbusy hbytes => ?fourth, fun hlen hbad hbusy hbytes => ?tenth⟩
  case fourth =>
    have hr := replay_oneByteAttempts opc p (xs := bad ++ [(r, g)]) (e := s.env) (polls := polls) (bytes := bytes)
      (by simpa [hlen] using hbusy) (by simpa using hbytes)
    rw [writeCommand_of_bad_run_then_ok hs (by omega) hr (fun y hy => by simp [hbad y hy]) hok, hlen]
    have hword : (BitVec.ofNat 8 4 ++ LoraOutcome.ok.code).setWidth 32 = (0x400 : Word) := by decide
    rw [State.afterBus_lora, lastOutcome_ofCommand, hword, List.flatMap_append, List.flatMap_singleton, State.afterBus,
      events_ofCommand_ok (by decide), htr]
    rfl
  case tenth =>
    obtain rfl | ⟨bad, x, rfl⟩ := List.eq_nil_or_concat' bad
    · cases hlen
    have hr := replay_oneByteAttempts opc p (e := s.env) (polls := polls) (bytes := bytes) (by rw [hlen]; exact hbusy) hbytes
    have hx : inspect s.build.chip x.2 ≠ .ok := hbad x (by simp)
    rw [List.length_append, List.length_singleton] at hlen
    rw [writeCommand_of_all_bad hs (by omega) hr hbad, hlen]
    refine ⟨inspect s.build.chip x.2, by simp, LoraOutcome.code_ne_zero hx, ?_⟩
    rw [State.afterBus_lora, lastOutcome_ofCommand, State.afterBus, events_ofCommand_of_bad hx (by decide), htr]
    rfl

end Sys2Proof.Machine
end

section
/-! The power and the users of the radio (47_availability_system.md R305 to R311): what each operation and event leaves of the
availability registers, the count over runs of REQUIREs and RELEASEs, and the two steps that switch the power off. -/

namespace Sys2Proof.Machine

/-! ### The LoRa sequencer leaves the availability registers (45_lora_primitives.md) -/

@[simp] theorem logWarning_avail (s : State) : (logWarning s).avail = s.avail := rfl
@[simp] theorem logFailure_avail (s : State) : (logFailure s).avail = s.avail := rfl

@[simp] theorem waitBusy_avail (T : Nat) (s : State) : (waitBusy T s).2.avail = s.avail := by
  obtain ⟨tr, e, -, -, h⟩ := waitBusy_spec T s
  rw [h, State.afterBus_avail]

@[simp] theorem waitBusySingle_avail (s : State) : (waitBusySingle s).2.avail = s.avail := waitBusy_avail _ s
@[simp] theorem waitBusyPolled_avail (s : State) : (waitBusyPolled s).2.avail = s.avail := waitBusy_avail _ s

@[simp] theorem busXfer_avail (o : Byte) (s : State) : (busXfer o s).2.avail = s.avail := by
  rw [busXfer_eq, State.afterBus_avail]

@[simp] theorem sendPayload_avail (pay : List Byte) (s : State) : (sendPayload pay s).2.avail = s.avail := by
  obtain ⟨tr, e, -, -, h⟩ := sendPayload_spec pay s
  rw [h, State.afterBus_avail]

@[simp] theorem sendAll_avail (outs : List Byte) (s : State) : (sendAll outs s).avail = s.avail := by
  obtain ⟨tr, e, -, -, h⟩ := sendAll_spec outs s
  rw [h, State.afterBus_avail]

@[simp] theorem readBytes_avail (o : Byte) (n : Nat) (s : State) : (readBytes o n s).2.avail = s.avail := by
  obtain ⟨e, -, -, h⟩ := readBytes_spec o n s
  rw [h, State.afterBus_avail]

@[simp] theorem writeAttempt_avail (opc : Byte) (pay : List Byte) (s : State) : (writeAttempt opc pay s).2.avail = s.avail := by
  simp [writeAttempt]

@[simp] theorem retryLoop_avail (opc : Byte) (pay : List Byte) (left k : Nat) (s : State) :
    (retryLoop opc pay left k s).2.2.avail = s.avail := by
  induction left generalizing k s with
  | zero =>
    unfold retryLoop
    dsimp only
    split <;> simp
  | succ left ih =>
    unfold retryLoop
    dsimp only
    split <;> simp [ih]

@[simp] theorem writeCommand_avail (opc : Byte) (pay : List Byte) (s : State) : (writeCommand opc pay s).avail = s.avail := by
  unfold writeCommand
  dsimp only
  split <;> simp

@[simp] theorem readTransaction_avail (opc : Byte) (pre : List Byte) (n : Nat) (s : State) :
    (readTransaction opc pre n s).2.avail = s.avail := by
  simp [readTransaction]

@[simp] theorem getIrq_avail (s : State) : (getIrq s).2.avail = s.avail := by
  simp [getIrq]

@[simp] theorem setRx_avail (t : BitVec 24) (s : State) : (setRx t s).avail = s.avail := by
  simp [setRx]

/-- Bring-up (R308) settles "channel ready" alone. -/
theorem bringUp_avail (s : State) : ∃ ready, (bringUp s).avail = { s.avail with channelReady := ready } := by
  cases hb : s.build.backend with
  | afsk => exact ⟨!s.env.squelchOpen, by simp [bringUp, hb, bringUpAfsk]⟩
  | lora => exact ⟨true, by simp [bringUp, hb, bringUpLora]⟩

/-! ### The AFSK engines leave the power (42_capture_and_clock.md, 43_modulator.md) -/

@[simp] theorem put_avail (v : Byte) (s : State) : (put v s).avail = s.avail := by
  obtain ⟨buf, wc, len, h⟩ := put_frame v s
  rw [h]

@[simp] theorem boundary_avail (s : State) : (boundary s).avail = s.avail := by
  obtain ⟨-, h⟩ | ⟨-, -, h⟩ | ⟨-, -, h⟩ := boundary_cases s <;> rw [h]

@[simp] theorem loadNext_avail (s : State) : (loadNext s).avail = s.avail := by
  obtain ⟨-, h⟩ | ⟨-, b, q, -, h⟩ | ⟨-, -, h⟩ := loadNext_cases s <;> rw [h]

@[simp] theorem processSample_avail (e : AdcSample) (s : State) : (processSample e s).avail = s.avail := by
  simp only [processSample, takeDet_eq]
  split
  · split
    · simp
    · split <;> simp
  · rfl

@[simp] theorem capStep_avail (s : State) : (capStep s).avail = s.avail := by
  unfold capStep
  split
  · rfl
  · dsimp only
    split
    · split
      · simp
      · split <;> simp
    · simp

@[simp] theorem tickRx_avail (s : State) : (tickRx s).avail = s.avail := by
  simp only [tickRx, takeAdc_eq]
  split <;> rfl

theorem tickTx_onOff (s : State) : (tickTx s).avail.onOff = s.avail.onOff := by
  unfold tickTx
  split
  · rfl
  · split
    · rfl
    · split <;> simp

theorem runTick_onOff (s : State) : (runTick s).avail.onOff = s.avail.onOff := by
  unfold runTick
  split
  · split
    · rw [tickRx_avail]
    · exact tickTx_onOff s
  · rfl

theorem runCapStep_onOff (s : State) : (runCapStep s).avail.onOff = s.avail.onOff := by
  unfold runCapStep
  split
  · rw [capStep_avail]
  · rfl

theorem squelchEdge_onOff (v : Bool) (s : State) : (squelchEdge v s).avail.onOff = s.avail.onOff := by
  unfold squelchEdge
  split <;> rfl

@[simp] theorem Reg.write_avail (r : Reg) (v : Word) (s : State) : (r.write v s).avail = s.avail := by
  cases r <;> rfl

/-! ### REQUIRE and RELEASE (R306, R307) -/

/-- REQUIRE counts, and the power is on after it unless there were users without power. -/
theorem exec_require_spec (s : State) :
    ∃ t, exec .require s = .next t ∧ t.avail.useCount = satInc s.avail.useCount ∧
      (s.avail.useCount = 0 ∨ s.avail.onOff = true → t.avail.onOff = true) := by
  refine ⟨_, rfl, ?_⟩
  dsimp only
  split
  · split
    · obtain ⟨ready, h⟩ :=
        bringUp_avail (setOnOff true { s with avail.useCount := satInc s.avail.useCount, avail.pdPending := false })
      simp [h]
    · rename_i hon
      exact ⟨rfl, fun _ => eq_true_of_ne_false hon⟩
  · rename_i hused
    exact ⟨rfl, fun h => h.resolve_left hused⟩

/-- RELEASE with a user counts down; the last one leaves a power-down owed; the power stays. -/
theorem exec_release_of_used {s : State} (h : s.avail.useCount ≠ 0) :
    ∃ t, exec .release s = .next t ∧ t.avail.useCount = s.avail.useCount - 1 ∧ t.avail.onOff = s.avail.onOff ∧
      (t.avail.useCount = 0 → t.avail.pdPending = true) := by
  refine ⟨_, if_neg h, ?_⟩
  dsimp only
  split
  · exact ⟨rfl, rfl, fun _ => rfl⟩
  · rename_i hleft
    exact ⟨rfl, rfl, fun hc => absurd hc hleft⟩

theorem exec_release_of_unused {s : State} (h : s.avail.useCount = 0) : exec .release s = .next (s.withRsp .ok 0) := if_pos h

theorem toNat_satInc_of_lt {w : Nat} {x : BitVec w} (h : x.toNat + 1 < 2 ^ w) : (satInc x).toNat = x.toNat + 1 := by
  rw [satInc_eq, satAdd, BitVec.toNat_ofNat, Nat.mod_eq_of_lt (by omega)]
  omega

/-- A run of REQUIREs that does not saturate the count. -/
theorem runOps_requires (k : Nat) (is : List Instr) {s : State} (hpower : s.avail.useCount = 0 ∨ s.avail.onOff = true)
    (hk : s.avail.useCount.toNat + k < 2 ^ 16) :
    ∃ t, runOps (List.replicate k .require ++ is) s = runOps is t ∧ t.avail.useCount.toNat = s.avail.useCount.toNat + k ∧
      (t.avail.useCount = 0 ∨ t.avail.onOff = true) := by
  induction k generalizing s with
  | zero => exact ⟨s, rfl, rfl, hpower⟩
  | succ k ih =>
    obtain ⟨u, hu, hcount, hon⟩ := exec_require_spec s
    have hcount' : u.avail.useCount.toNat = s.avail.useCount.toNat + 1 := by
      rw [hcount, toNat_satInc_of_lt (by omega)]
    obtain ⟨t, ht, htcount, htpower⟩ := ih (s := u) (.inr (hon hpower)) (by omega)
    exact ⟨t, (runOps_cons hu).trans ht, by omega, htpower⟩

/-- RELEASEs down to no user: the power is left on, and a power-down owed. -/
theorem runOps_releases (k : Nat) {s : State} (hk : s.avail.useCount.toNat = k + 1) :
    ∃ t, runOps (List.replicate (k + 1) .release) s = some t ∧ t.avail.useCount = 0 ∧ t.avail.onOff = s.avail.onOff ∧
      t.avail.pdPending = true := by
  induction k generalizing s with
  | zero =>
    obtain ⟨u, hu, hcount, hon, hpd⟩ := exec_release_of_used (s := s) (by bv_omega)
    have hzero : u.avail.useCount = 0 := by bv_omega
    exact ⟨u, runOps_cons hu, hzero, hon, hpd hzero⟩
  | succ k ih =>
    obtain ⟨u, hu, hcount, hon, -⟩ := exec_release_of_used (s := s) (by bv_omega)
    obtain ⟨t, ht, htcount, hton, htpd⟩ := ih (s := u) (by bv_omega)
    exact ⟨t, (runOps_cons hu).trans ht, htcount, hton.trans hon, htpd⟩

/-! ### Results that keep the power on -/

/-- If the power is on at `s`, it is on in the state `k` answers. -/
def KeepsPower (s : State) (k : Result) : Prop := ∀ t, k = .next t → s.avail.onOff = true → t.avail.onOff = true

namespace KeepsPower

variable {s t : State} {k k' : Result}

theorem next (h : t.avail.onOff = s.avail.onOff) : KeepsPower s (.next t) := by
  rintro _ ⟨⟩ hon
  rw [h, hon]

theorem respond (h : t.avail.onOff = s.avail.onOff) {st : Status} {v : Word} : KeepsPower s (t.respond st v) := .next h

theorem ok {v : Word} : KeepsPower s (s.respond .ok v) := .respond rfl

theorem refuse {st : Status} : KeepsPower s (s.refuse st) := .respond rfl

theorem ite {c : Prop} [Decidable c] (h : KeepsPower s k) (h' : KeepsPower s k') : KeepsPower s (if c then k else k') := by
  split <;> assumption

theorem onAfsk (h : KeepsPower s k) : KeepsPower s (onAfsk s k) := .ite h .refuse

theorem onLora (h : KeepsPower s k) : KeepsPower s (onLora s k) := .ite h .refuse

theorem onRing (h : KeepsPower s k) : KeepsPower s (onRing s k) := .onAfsk (.ite h .refuse)

theorem whileUp (h : KeepsPower s k) : KeepsPower s (whileUp s k) := .ite h (.next rfl)

end KeepsPower

/-! ### Operations -/

theorem exec_codecOp_keepsPower {i : Instr} (hi : isCodecOp i = true) (s : State) : KeepsPower s (exec i s) := by
  obtain ⟨c, r, h, -⟩ := codecIsPure i s s hi rfl rfl rfl
  rw [h]
  exact .next rfl

theorem exec_require_keepsPower (s : State) : KeepsPower s (exec .require s) := by
  obtain ⟨u, hu, -, hon⟩ := exec_require_spec s
  rw [hu]
  rintro _ ⟨⟩ h
  exact hon (.inr h)

theorem execWrreg_keepsPower (idx : Byte) (v : Word) (s : State) : KeepsPower s (execWrreg idx v s) := by
  unfold execWrreg
  cases Reg.ofIndex idx with
  | none => exact .refuse
  | some r =>
    refine .ite ?_ .refuse
    cases r.writeMask? with
    | none => exact .refuse
    | some m => exact .ite (.respond (by simp)) .refuse

theorem execRdreg_keepsPower (idx : Byte) (s : State) : KeepsPower s (execRdreg idx s) := by
  unfold execRdreg
  cases Reg.ofIndex idx with
  | none => exact .refuse
  | some r => exact .ite .ok .refuse

theorem execLwait_keepsPower (form : WaitForm) (t : Half) (s : State) : KeepsPower s (execLwait form t s) := by
  refine .onLora (.ite .refuse (.respond ?_))
  cases form with
  | polled => simp
  | single => dsimp only; split <;> simp

theorem execLrcmd_keepsPower (opc p n : Byte) (s : State) : KeepsPower s (execLrcmd opc p n s) := by
  unfold execLrcmd
  dsimp only
  exact .onLora (.ite .refuse (.respond (by simp)))

theorem execLrecv_keepsPower (cap : Half) (s : State) : KeepsPower s (execLrecv cap s) := by
  unfold execLrecv
  dsimp only
  exact .onLora (.ite (.respond (by simp)) (.ite (.respond (by simp)) (.respond (by simp))))

theorem execLpoll_keepsPower (s : State) : KeepsPower s (execLpoll s) := by
  unfold execLpoll
  dsimp only
  refine .onLora ?_
  cases (getIrq s).2.lora.loraMode with
  | standby => exact .respond (by simp)
  | rx => exact .ite (.respond (by simp)) (.ite (.respond (by simp)) (.respond (by simp)))
  | tx => exact .ite (.respond (by simp)) (.respond (by simp))

/-- Of all operations SRESET alone switches the power off. -/
theorem exec_keepsPower {i : Instr} (hi : i ≠ .sreset) (s : State) : KeepsPower s (exec i s) := by
  cases i with
  | sreset => exact absurd rfl hi
  | strclr | strput | strget | s2a | a2s | axflg | axrd | axssid | axndigi | axctl | axenc | axdec | s2d | d2s | axbclr | axbput
  | axbget => exact exec_codecOp_keepsPower rfl s
  | require => exact exec_require_keepsPower s
  | release =>
    refine .ite .ok (.respond ?_)
    split <;> rfl
  | rdreg idx => exact execRdreg_keepsPower idx s
  | wrreg idx v => exact execWrreg_keepsPower idx v s
  | nop | evclr => exact .respond rfl
  | setmode | clkstop | ptt => exact .onAfsk (.respond rfl)
  | txqpush => exact .onAfsk (.ite .refuse (.respond rfl))
  | txstart => exact .onAfsk (.ite .ok (.ite .ok (.respond (by simp))))
  | rbget | rbeof | rbreset | capstop => exact .onRing (.respond rfl)
  | rbnext | rblast | capstart => exact .onRing (.ite .refuse (.respond rfl))
  | rbput v => exact .onRing (.ite .refuse (.respond (by simp)))
  | lpbclr => exact .onLora (.respond rfl)
  | lpbput | lpbrd => exact .onLora (.ite .refuse (.respond rfl))
  | lwcmd | lwbuf | lsend => exact .onLora (.ite .refuse (.respond (by simp)))
  | lwreg | lsetrx | lsetfreq | lsetpwr => exact .onLora (.respond (by simp))
  | lrcmd opc p n => exact execLrcmd_keepsPower opc p n s
  | lrecv cap => exact execLrecv_keepsPower cap s
  | lrreg | lrbuf | lrssi | lpktst =>
    simp only [exec, execLrreg, execLrbuf, execLrssi, execLpktst]
    exact .onLora (.respond (by simp))
  | lpoll => exact execLpoll_keepsPower s
  | lwait form t => exact execLwait_keepsPower form t s

theorem runWord_keepsPower {w : CmdWord} (h : decode w ≠ .ok .sreset) (s : State) : KeepsPower s (runWord w s) := by
  unfold runWord
  cases hd : decode w with
  | ok i => exact exec_keepsPower (fun hi => h (by rw [hd, hi])) s
  | error _ => exact .refuse

/-! ### Steps -/

/-- The agenda entry is a reset, as `StepIsReset` has it. -/
def Stimulus.IsReset (e : Stimulus) : Prop :=
  (∃ w, e = .command w ∧ decode w = .ok .sreset) ∨ e = .resetLow ∨ e = .resetHigh ∨ ∃ w k, e = .resetDuring w k

theorem powerDownEnabled_iff (s : State) :
    powerDownEnabled s = true ↔ s.avail.pdPending = true ∧ s.avail.useCount = 0 ∧ s.avail.txOff = true := by
  simp [powerDownEnabled, and_assoc]

theorem runPowerDown_of_disabled {s : State} (h : powerDownEnabled s ≠ true) : runPowerDown s = s := if_neg h

theorem runStimulus_keepsPower {e : Stimulus} {s : State} (hreset : ¬ e.IsReset)
    (hdown : e = .powerDown → powerDownEnabled s ≠ true) : KeepsPower s (runStimulus e s) := by
  cases e with
  | command w => exact (runWord_keepsPower (fun hd => hreset (.inl ⟨w, rfl, hd⟩)) s).whileUp
  | tick => exact (KeepsPower.next (runTick_onOff s)).whileUp
  | capStep => exact (KeepsPower.next (runCapStep_onOff s)).whileUp
  | squelchEdge v =>
    exact (KeepsPower.next (squelchEdge_onOff v _)).whileUp (s := { s with env.squelchOpen := v })
  | powerDown =>
    have hstays : KeepsPower s (.next (runPowerDown s)) := .next (by rw [runPowerDown_of_disabled (hdown rfl)])
    exact hstays.whileUp
  | resetLow => exact absurd (.inr (.inl rfl)) hreset
  | resetHigh => exact absurd (.inr (.inr (.inl rfl))) hreset
  | resetDuring w k => exact absurd (.inr (.inr (.inr ⟨w, k, rfl⟩))) hreset
  | squelchPin v => exact .next rfl
  | allocPin v => exact .next rfl

/-- A step that switches the power off is a reset or the owed power-down (R309, R311). -/
theorem step_power_off {s t : State} (hstep : step s = .next t) (hon : s.avail.onOff = true) (hoff : t.avail.onOff = false) :
    StepIsReset s ∨
      ((∃ rest, s.env.agenda = .powerDown :: rest) ∧ s.avail.pdPending = true ∧ s.avail.useCount = 0 ∧ s.avail.txOff = true) := by
  unfold step runNext at hstep
  cases hag : s.env.agenda with
  | nil =>
    rw [hag] at hstep
    cases hstep
    simp [hon] at hoff
  | cons e rest =>
    rw [hag] at hstep
    by_cases hreset : e.IsReset
    · exact .inl ⟨e, rest, hag, hreset⟩
    · by_cases hdown : e = .powerDown ∧ powerDownEnabled (s.begin rest) = true
      · obtain ⟨rfl, henabled⟩ := hdown
        exact .inr ⟨⟨rest, rfl⟩, (powerDownEnabled_iff _).1 henabled⟩
      · have hkeeps := runStimulus_keepsPower hreset fun he henabled => hdown ⟨he, henabled⟩
        rw [hkeeps t hstep hon] at hoff
        cases hoff

/-- Settles O53: REQUIRE from its specification, the runs by induction on the number of users, the power by the step that can take
it. -/
theorem availabilityProperty : Obligations.AvailabilityProperty := by
  unfold Obligations.AvailabilityProperty
  refine ⟨fun s hcount _ => ?powersOn, fun s k hcount hk hmax => ?balanced, fun s t => step_power_off, fun s hcount => ?floor⟩
  case powersOn =>
    obtain ⟨t, ht, -, hon⟩ := exec_require_spec s
    exact ⟨t, ht, hon (.inl hcount)⟩
  case balanced =>
    have hzero : s.avail.useCount.toNat = 0 := by rw [hcount]; rfl
    obtain ⟨u, hu, hucount, hupower⟩ := runOps_requires k (List.replicate k .release) (.inl hcount) (by omega)
    have hon : u.avail.onOff = true := hupower.resolve_left fun h => by rw [h] at hucount; simp at hucount; omega
    obtain ⟨k, rfl⟩ := Nat.exists_eq_add_of_le' hk
    obtain ⟨t, ht, htcount, hton, htpd⟩ := runOps_releases k (s := u) (by omega)
    exact ⟨t, hu.trans ht, htcount, hton.trans hon, htpd⟩
  case floor => exact ⟨_, exec_release_of_unused hcount, hcount⟩

end Sys2Proof.Machine
end

section
/-! Command words and steps (30_encoding.md R100 to R106, 20_memory.md R80): the decoder and the encoder are inverse, every operation
answers, and so every step of the block. -/

namespace Sys2Proof.Machine

/-- Settles O1: the word of a well-formed instruction, row by row of R104. -/
theorem decodeOfEncode : Obligations.DecodeOfEncode := by
  unfold Obligations.DecodeOfEncode
  exact fun _ => decode_encode_of_wellFormed

/-- Settles O2: the fields of a decoded word are those of its instruction. -/
theorem encodeOfDecode : Obligations.EncodeOfDecode := by
  unfold Obligations.EncodeOfDecode
  exact fun _ _ => wellFormed_encode_of_decode

theorem decode_of_encode_eq {w : CmdWord} {i : Instr} (hwf : WellFormed i = true) (h : encode i = w) : decode w = .ok i :=
  h ▸ decode_encode_of_wellFormed hwf

/-- Settles O3: each printed word is the command word of its line. -/
theorem sampleWordsDecode : Obligations.SampleWordsDecode := by
  unfold Obligations.SampleWordsDecode
  exact ⟨decode_of_encode_eq rfl rfl, decode_of_encode_eq rfl rfl, decode_of_encode_eq rfl rfl, decode_of_encode_eq rfl rfl,
    decode_of_encode_eq rfl rfl, decode_of_encode_eq rfl rfl, decode_of_encode_eq rfl rfl, decode_of_encode_eq rfl rfl,
    decode_of_encode_eq rfl rfl, decode_of_encode_eq rfl rfl⟩

/-! ### Answers -/

theorem exec_answers (i : Instr) (s : State) : ∃ t r, exec i s = .next t ∧ t.out.rsp = some r := by
  obtain ⟨habsent, hdisabled, hruns⟩ := answersInOrder i s
  cases hb : builtIn i s.build with
  | false => exact ⟨_, _, habsent hb, rfl⟩
  | true =>
    by_cases hr : isRingOp i = true ∧ s.ring.rbEnabled = false
    · obtain ⟨hring, hoff⟩ := hr
      exact ⟨_, _, hdisabled hb hring hoff, rfl⟩
    · obtain ⟨t, r, ht, hrsp, -⟩ := hruns hb fun hring => eq_true_of_ne_false fun hoff => hr ⟨hring, hoff⟩
      exact ⟨t, r, ht, hrsp⟩

theorem runWord_of_decode {w : CmdWord} {i : Instr} (h : decode w = .ok i) (s : State) : runWord w s = exec i s := by
  rw [runWord, h]

theorem runWord_of_not_decode {w : CmdWord} {d : DecodeError} (h : decode w = .error d) (s : State) :
    runWord w s = .next (s.withRsp .illegal 0) := by
  rw [runWord, h]
  rfl

theorem runWord_answers (w : CmdWord) (s : State) : ∃ t r, runWord w s = .next t ∧ t.out.rsp = some r := by
  cases hd : decode w with
  | ok i => rw [runWord_of_decode hd]; exact exec_answers i s
  | error d => exact ⟨_, _, runWord_of_not_decode hd s, rfl⟩

/-! ### Steps -/

theorem step_of_nil {s : State} (h : s.env.agenda = []) : step s = .next (s.begin []) := by
  rw [step, runNext, h]

theorem step_of_cons {s : State} {e : Stimulus} {rest : List Stimulus} (h : s.env.agenda = e :: rest) :
    step s = runStimulus e (s.begin rest) := by
  rw [step, runNext, h]

theorem whileUp_up {s : State} (h : s.env.rstN = true) (k : Result) : whileUp s k = k := if_pos h

theorem whileUp_low {s : State} (h : s.env.rstN = false) (k : Result) : whileUp s k = .next s := by
  rw [whileUp, h]
  rfl

/-- A gate on `rst_n` answers if what it guards does. -/
theorem whileUp_answers {s : State} {k : Result} (h : ∃ t, k = .next t) : ∃ t, whileUp s k = .next t := by
  cases hr : s.env.rstN with
  | true => rwa [whileUp_up hr]
  | false => exact ⟨s, whileUp_low hr k⟩

/-- A fall of `rst_n` inside an operation (R362): what it leaves, from what the operation would have left. -/
theorem runCut_of_runWord {w : CmdWord} {s t : State} (h : runWord w s = .next t) (k : Nat) :
    runCut w k s =
      .next { resetLow (if k < t.out.trace.length then { s with env := t.env } else t) with
              out := { StepOut.none with trace := t.out.trace.take k } } := by
  rw [runCut, h]

theorem runStimulus_answers (e : Stimulus) (s : State) : ∃ t, runStimulus e s = .next t := by
  cases e with
  | command w =>
    obtain ⟨t, -, ht, -⟩ := runWord_answers w s
    exact whileUp_answers ⟨t, ht⟩
  | resetDuring w k =>
    obtain ⟨t, -, ht, -⟩ := runWord_answers w s
    exact whileUp_answers ⟨_, runCut_of_runWord ht k⟩
  | tick | capStep | squelchEdge v | powerDown => exact whileUp_answers ⟨_, rfl⟩
  | resetLow | resetHigh | squelchPin v | allocPin v => exact ⟨_, rfl⟩

/-- Settles O5: every agenda entry answers, and an accepted word answers with a response. -/
theorem everyStepAnswers : Obligations.EveryStepAnswers := by
  unfold Obligations.EveryStepAnswers
  intro s
  cases hag : s.env.agenda with
  | nil => exact ⟨_, step_of_nil hag, nofun⟩
  | cons e rest =>
    obtain ⟨t, ht⟩ := runStimulus_answers e (s.begin rest)
    refine ⟨t, (step_of_cons hag).trans ht, ?_⟩
    rintro w _ ⟨⟩ hup
    obtain ⟨u, r, hu, hr⟩ := runWord_answers w (s.begin rest)
    cases ht.symm.trans ((whileUp_up (s := s.begin rest) hup _).trans hu)
    exact ⟨r, hr⟩

theorem step_of_command {s : State} {w : CmdWord} {rest : List Stimulus} {i : Instr} (hag : s.env.agenda = .command w :: rest)
    (hup : s.env.rstN = true) (hd : decode w = .ok i) : step s = exec i (s.begin rest) :=
  (step_of_cons hag).trans ((whileUp_up (s := s.begin rest) hup _).trans (runWord_of_decode hd _))

/-- Settles O6. -/
theorem stepRunsCommand : Obligations.StepRunsCommand := by
  unfold Obligations.StepRunsCommand
  exact fun _ _ _ _ => step_of_command

/-- Settles O7: both are their one rule. -/
theorem nopAndEvclrResult : Obligations.NopAndEvclrResult := by
  unfold Obligations.NopAndEvclrResult
  exact fun _ => ⟨rfl, fun _ => rfl⟩

end Sys2Proof.Machine
end

section
/-! Bus work of whole operations (45_lora_primitives.md R241 to R247): what a run of write commands, reads, waits and pin writes leaves,
one after the other. A pin write also moves the level its pin has; those updates are kept apart from the bus work, with which they
commute. -/

namespace Sys2Proof.Machine

/-! ### Updates that commute with bus work -/

/-- The registers of the command channel that bus work and pin writes leave alone: the outcome registers, the mirrored mode and the
two pins at fixed values. -/
def Lora.settled (l : Lora) : Lora :=
  { l with loraMode := .standby, paEnable := false, loraRst := false, lastStatus := 0, lastAttempts := 0 }

section
variable {l l' : Lora}

theorem Lora.csAsserted_eq (h : l.settled = l'.settled) : l.csAsserted = l'.csAsserted := by
  have hfield := congrArg Lora.csAsserted h
  exact hfield

theorem Lora.busyTimeout_eq (h : l.settled = l'.settled) : l.busyTimeout = l'.busyTimeout := by
  have hfield := congrArg Lora.busyTimeout h
  exact hfield

end

/-- An update that bus work cannot see and does not disturb. -/
structure BusInert (f : State → State) : Prop where
  build : ∀ s, (f s).build = s.build
  env : ∀ s, (f s).env = s.env
  settled : ∀ s, (f s).lora.settled = s.lora.settled
  afterBus : ∀ s tr y e, f (s.afterBus tr y e) = (f s).afterBus tr y e

theorem Tally.lora_settled (y : Tally) (l : Lora) : (y.lora l).settled = l.settled := by
  unfold Tally.lora
  split <;> rfl

theorem BusInert.id : BusInert id := ⟨fun _ => rfl, fun _ => rfl, fun _ => rfl, fun _ _ _ _ => rfl⟩

theorem BusInert.comp {f g : State → State} (hg : BusInert g) (hf : BusInert f) : BusInert (g ∘ f) where
  build s := (hg.build _).trans (hf.build s)
  env s := (hg.env _).trans (hf.env s)
  settled s := (hg.settled _).trans (hf.settled s)
  afterBus s tr y e := (congrArg g (hf.afterBus s tr y e)).trans (hg.afterBus _ tr y e)

/-- The level of `paEnable` without its event. -/
def State.withPa (v : Bool) (s : State) : State := { s with lora.paEnable := v }

/-- The level of `loraRst` without its event. -/
def State.withRst (v : Bool) (s : State) : State := { s with lora.loraRst := v }

theorem BusInert.pa (v : Bool) : BusInert (State.withPa v) :=
  ⟨fun _ => rfl, fun _ => rfl, fun _ => rfl, fun s tr y e => by
    obtain ⟨_, _, _ | _⟩ := y <;> rfl⟩

theorem BusInert.rst (v : Bool) : BusInert (State.withRst v) :=
  ⟨fun _ => rfl, fun _ => rfl, fun _ => rfl, fun s tr y e => by
    obtain ⟨_, _, _ | _⟩ := y <;> rfl⟩

/-- The availability registers set, whatever they were. -/
theorem BusInert.avail (g : Avail → Avail) : BusInert fun s => { s with avail := g s.avail } :=
  ⟨fun _ => rfl, fun _ => rfl, fun _ => rfl, fun _ _ _ _ => rfl⟩

/-- An event flag raised, which the flags of bus work do not undo. -/
theorem BusInert.raiseEvt (flag : EvtFlag) : BusInert (raiseEvt flag) :=
  ⟨fun _ => rfl, fun _ => rfl, fun _ => rfl, fun s tr y e => by
    simp only [Machine.raiseEvt, State.afterBus, Tally.events, State.mk.injEq, Events.mk.injEq, and_true, true_and]
    ac_rfl⟩

/-! ### Bus work and the levels it leaves -/

/-- From `s` the items are done on the bus, in order, and with the levels that `f` sets they leave `t`. -/
structure BusWork (s : State) (items : List BusItem) (f : State → State) (t : State) : Prop where
  inert : BusInert f
  does : ∃ m, DoesBus s items m ∧ t = f m

section
variable {s t : State} {items : List BusItem} {f : State → State}

theorem DoesBus.nil (s : State) : DoesBus s [] s := ⟨[], Tally.zero, s.env, .nil, rfl, (State.afterBus_nil s).symm⟩

theorem doesBus_pin (p : Pin) (v : Bool) (s : State) :
    DoesBus s [.pin p v] (s.afterBus [.pin p v] Tally.zero s.env) := ⟨_, _, _, .pin .nil, rfl, rfl⟩

theorem BusWork.start (s : State) : BusWork s [] id s := ⟨.id, s, .nil s, rfl⟩

theorem DoesBus.settled (h : DoesBus s items t) : t.lora.settled = s.lora.settled := by
  obtain ⟨tr, y, e, -, -, rfl⟩ := h
  exact y.lora_settled _

theorem BusWork.build (h : BusWork s items f t) : t.build = s.build := by
  obtain ⟨hf, m, ⟨tr, y, e, -, -, rfl⟩, rfl⟩ := h
  exact hf.build _

theorem BusWork.settled (h : BusWork s items f t) : t.lora.settled = s.lora.settled := by
  obtain ⟨hf, m, hm, rfl⟩ := h
  exact (hf.settled m).trans hm.settled

theorem BusWork.csAsserted (h : BusWork s items f t) : t.lora.csAsserted = s.lora.csAsserted := Lora.csAsserted_eq h.settled

/-- An inert update between two pieces of bus work may as well come after both. -/
theorem DoesBus.of_inert (hf : BusInert f) (h : DoesBus (f s) items t) : ∃ m, DoesBus s items m ∧ t = f m := by
  obtain ⟨tr, y, e, hb, hr, rfl⟩ := h
  have hT : (f s).lora.busyTimeout = s.lora.busyTimeout := Lora.busyTimeout_eq (hf.settled s)
  rw [hf.build, hT] at hb
  rw [hf.env] at hr
  exact ⟨s.afterBus tr y e, ⟨tr, y, e, hb, hr, rfl⟩, (hf.afterBus s tr y e).symm⟩

theorem BusWork.andThen {more : List BusItem} {u : State} (h : BusWork s items f t) (h' : DoesBus t more u) :
    BusWork s (items ++ more) f u := by
  obtain ⟨hf, m, hm, rfl⟩ := h
  obtain ⟨m', hm', rfl⟩ := h'.of_inert hf
  exact ⟨hf, m', hm.trans hm', rfl⟩

theorem BusWork.update {g : State → State} (hg : BusInert g) (h : BusWork s items f t) : BusWork s items (g ∘ f) (g t) := by
  obtain ⟨hf, m, hm, rfl⟩ := h
  exact ⟨hg.comp hf, m, hm, rfl⟩

theorem BusWork.setPaEnable (v : Bool) (h : BusWork s items f t) :
    BusWork s (items ++ [.pin .paEnable v]) (State.withPa v ∘ f) (setPaEnable v t) := by
  have hwork := (h.andThen (doesBus_pin .paEnable v t)).update (.pa v)
  have heq : State.withPa v (t.afterBus [.pin .paEnable v] Tally.zero t.env) = Machine.setPaEnable v t := by
    simp [State.withPa, Machine.setPaEnable, State.logEvent, State.afterBus]
  rwa [heq] at hwork

theorem BusWork.setLoraRst (v : Bool) (h : BusWork s items f t) :
    BusWork s (items ++ [.pin .loraRst v]) (State.withRst v ∘ f) (setLoraRst v t) := by
  have hwork := (h.andThen (doesBus_pin .loraRst v t)).update (.rst v)
  have heq : State.withRst v (t.afterBus [.pin .loraRst v] Tally.zero t.env) = Machine.setLoraRst v t := by
    simp [State.withRst, Machine.setLoraRst, State.logEvent, State.afterBus]
  rwa [heq] at hwork

theorem BusWork.setOnOff (v : Bool) (h : BusWork s items f t) :
    BusWork s (items ++ [.pin .radioPwr v]) ((fun m => { m with avail := { m.avail with onOff := v } }) ∘ f) (setOnOff v t) := by
  have hwork := (h.andThen (doesBus_pin .radioPwr v t)).update (.avail fun a => { a with onOff := v })
  have heq : { t.afterBus [.pin .radioPwr v] Tally.zero t.env with avail := { t.avail with onOff := v } } =
      Machine.setOnOff v t := by
    simp [Machine.setOnOff, State.logEvent, State.afterBus]
  exact heq ▸ hwork

/-- A write command whose opcode and payload are read from the build and the settled registers, so that they are those of `s`. -/
theorem BusWork.write (opc : Build → Byte) (pay : Build → Lora → List Byte) (hs : s.lora.csAsserted = false)
    (hm : 1 ≤ s.build.maxAttempts) (h : BusWork s items f t) :
    BusWork s (items ++ [.write (opc s.build) (pay s.build s.lora.settled)]) f
      (writeCommand (opc t.build) (pay t.build t.lora.settled) t) := by
  have hwork := h.andThen (doesBus_write (opc t.build) (pay t.build t.lora.settled) t (h.csAsserted.trans hs) (by rwa [h.build]))
  rwa [h.build, h.settled] at hwork ⊢

end

/-! ### Stores in the payload buffer -/

/-- The data of a read replace the buffer's content (R254). -/
theorem storeLpb_spec {s m : State} {items : List BusItem} {data : List Byte} {n : Nat} (h : DoesBus s items m)
    (hn : data.length = n) :
    ∃ lpb, Stored .lpb s.lora.lpb 0 data lpb ∧ storeLpb data m = { m with lora.lpb := lpb, lora.lpbLen := n } := by
  obtain ⟨tr, y, e, rfl, -, -, -, hlpb, -⟩ := h.frame
  rw [← hlpb, ← hn]
  exact ⟨_, stored_writeFrom .lpb _ 0 data, rfl⟩

/-! ### The state between two transactions -/

/-- A read transaction as the data it returned and the state it left. -/
theorem readTransaction_data {s : State} (opc : Byte) (pre : List Byte) (n : Nat) (hs : s.lora.csAsserted = false) :
    ∃ data m, readTransaction opc pre n s = (data, m) ∧ data.length = n ∧ DoesBus s [.read opc pre data] m := by
  obtain ⟨hl, hb⟩ := doesBus_read opc pre n s hs
  exact ⟨_, _, rfl, hl, hb⟩

theorem DoesBus.csAsserted {s t : State} {items : List BusItem} (h : DoesBus s items t) :
    t.lora.csAsserted = s.lora.csAsserted := Lora.csAsserted_eq h.settled

theorem DoesBus.build {s t : State} {items : List BusItem} (h : DoesBus s items t) : t.build = s.build := by
  obtain ⟨tr, y, e, -, -, rfl⟩ := h
  rfl

end Sys2Proof.Machine
end

section
/-! The LoRa operations (45_lora_primitives.md R244, R253 to R258, 46_lora_packet_config.md R272 to R281, 47_availability_system.md
R308): the bus work each does and the state it leaves. -/

namespace Sys2Proof.Machine

section
variable {s : State}

/-! ### Waits, writes and reads -/

theorem exec_lwait_polled (hb : s.build.backend = .lora) :
    exec (.lwait .polled 0) s =
      .next ((waitBusy s.build.pollAttempts s).2.withRsp .ok (if (waitBusy s.build.pollAttempts s).1 then 1 else 0)) :=
  (onLora_built hb).trans (if_neg (by simp))

theorem exec_lwait_single (hb : s.build.backend = .lora) (t : Half) :
    let T := if t = 0 then s.lora.busyTimeout.toNat else t.toNat
    exec (.lwait .single t) s = .next ((waitBusy T s).2.withRsp .ok (if (waitBusy T s).1 then 1 else 0)) := by
  refine (onLora_built hb).trans ((if_neg (by simp)).trans ?_)
  by_cases ht : t = 0
  · simp only [ht, if_true, waitBusySingle]
    rfl
  · simp only [ht, if_false]
    rfl

/-- Settles O40: a bounded wait in both forms, and the refusal before it. -/
theorem lwaitResult : Obligations.LwaitResult := by
  unfold Obligations.LwaitResult
  intro s t hb
  exact ⟨fun ht => (onLora_built hb).trans (if_pos ⟨rfl, ht⟩), ⟨_, _, doesBus_wait _ s, exec_lwait_polled hb⟩,
    ⟨_, _, doesBus_wait _ s, exec_lwait_single hb t⟩⟩

theorem respondOutcome_eq (s : State) :
    respondOutcome s = .next (s.withRsp .ok ((s.lora.lastAttempts ++ s.lora.lastStatus).setWidth 32)) := rfl

/-- A write command answered by its outcome (R253). -/
theorem exec_write {i : Instr} {opc : Byte} {pay : List Byte} (hi : exec i s = respondOutcome (writeCommand opc pay s))
    (hs : s.lora.csAsserted = false) (hm : 1 ≤ s.build.maxAttempts) :
    ∃ m, DoesBus s [.write opc pay] m ∧
      exec i s = .next (m.withRsp .ok ((m.lora.lastAttempts ++ m.lora.lastStatus).setWidth 32)) :=
  ⟨_, doesBus_write opc pay s hs hm, hi.trans (respondOutcome_eq _)⟩

/-- Settles O41: one write command each, and `LLAST` of the state it leaves. -/
theorem writePrimitivesResult : Obligations.WritePrimitivesResult := by
  unfold Obligations.WritePrimitivesResult
  intro s a n v reg hb hs hm
  refine ⟨fun hn => ?short, fun hn => ⟨exec_write ?lwcmd hs hm, exec_write ?lwbuf hs hm⟩, exec_write ?lwreg hs hm⟩
  case short =>
    simp only [List.forall_mem_cons, exec, execLwcmd, execLwbuf, onLora_built hb, if_pos hn]
    exact ⟨rfl, rfl, nofun⟩
  case lwcmd => simp only [exec, execLwcmd, onLora_built hb, if_neg (Nat.not_lt.2 hn), lpbBytes]
  case lwbuf => simp only [exec, execLwbuf, onLora_built hb, if_neg (Nat.not_lt.2 hn), lpbBytes]
  case lwreg =>
    simp only [exec, execLwreg, onLora_built hb]
    rfl

/-- A read transaction that is answered by what `k` makes of its data. -/
theorem exec_read {i : Instr} {opc : Byte} {pre : List Byte} {n : Nat} {k : List Byte → State → Result}
    (hi : ∀ data m, readTransaction opc pre n s = (data, m) → exec i s = k data m) (hs : s.lora.csAsserted = false) :
    ∃ data m, data.length = n ∧ DoesBus s [.read opc pre data] m ∧ exec i s = k data m := by
  obtain ⟨data, m, hr, hn, hm⟩ := readTransaction_data opc pre n hs
  exact ⟨data, m, hn, hm, hi data m hr⟩

/-- The same, for a read whose data replace the content of the payload buffer. -/
theorem exec_readToLpb {i : Instr} {opc : Byte} {pre : List Byte} {n : Nat} {v : List Byte → Word}
    (hi : ∀ data m, readTransaction opc pre n s = (data, m) → exec i s = (storeLpb data m).respond .ok (v data))
    (hs : s.lora.csAsserted = false) :
    ∃ data m lpb, data.length = n ∧ DoesBus s [.read opc pre data] m ∧ Stored .lpb s.lora.lpb 0 data lpb ∧
      exec i s = .next (({ m with lora.lpb := lpb, lora.lpbLen := n } : State).withRsp .ok (v data)) := by
  obtain ⟨data, m, hn, hm, h⟩ := exec_read hi hs
  obtain ⟨lpb, hstored, heq⟩ := storeLpb_spec hm hn
  rw [heq] at h
  exact ⟨data, m, lpb, hn, hm, hstored, h⟩

/-- Settles O42: one read transaction each, its data counted out for the fixed lengths. -/
theorem readPrimitivesResult : Obligations.ReadPrimitivesResult := by
  unfold Obligations.ReadPrimitivesResult
  intro s a p n reg hb hs
  refine ⟨fun hp => ?short, fun hp => exec_readToLpb (v := fun _ => n.setWidth 32) (fun data m hr => ?lrcmd) hs,
    exec_readToLpb (v := fun _ => n.setWidth 32) (fun data m hr => ?lrbuf) hs, ?lrreg, ?lrssi, ?lpktst⟩
  case short =>
    simp only [exec, execLrcmd, onLora_built hb, if_pos hp]
    rfl
  case lrcmd =>
    rw [← lpbBytes] at hr
    simp only [exec, execLrcmd, onLora_built hb, if_neg (Nat.not_lt.2 hp), hr]
  case lrbuf => simp only [exec, execLrbuf, onLora_built hb, hr]
  case lrreg =>
    obtain ⟨data, m, hn, hm, hi⟩ := exec_read (i := .lrreg reg) (pre := be16 reg) (n := 1)
      (k := fun d u => u.respond .ok ((d.getD 0 0).setWidth 32)) (fun data m hr => by rw [exec, execLrreg, onLora_built hb, hr]) hs
    obtain ⟨d, rfl⟩ := List.length_eq_one_iff.1 hn
    exact ⟨d, m, hm, hi⟩
  case lrssi =>
    obtain ⟨data, m, hn, hm, hi⟩ := exec_read (i := .lrssi) (pre := []) (n := 1)
      (k := fun d u => u.respond .ok ((d.getD 0 0).setWidth 32)) (fun data m hr => by rw [exec, execLrssi, onLora_built hb, hr]) hs
    obtain ⟨d, rfl⟩ := List.length_eq_one_iff.1 hn
    exact ⟨d, m, hm, hi⟩
  case lpktst =>
    obtain ⟨data, m, lpb, hn, hm, hstored, hi⟩ := exec_readToLpb (i := .lpktst) (pre := []) (n := 3)
      (v := fun d => (d.getD 0 0 ++ d.getD 1 0 ++ d.getD 2 0).setWidth 32)
      (fun data m hr => by rw [exec, execLpktst, onLora_built hb, hr]) hs
    obtain ⟨d₀, d₁, d₂, rfl⟩ := List.length_eq_three.1 hn
    exact ⟨d₀, d₁, d₂, m, lpb, hm, hstored, hi⟩

/-! ### Packet path (R272 to R275) -/

/-- Settles O45: four pieces of bus work and a pin write, one after the other. -/
theorem lsendResult : Obligations.LsendResult := by
  unfold Obligations.LsendResult
  intro s len hb hs hm
  refine ⟨fun hl => ?short, fun hl => ?sent⟩
  case short =>
    simp only [exec, execLsend, onLora_built hb, if_pos hl]
    rfl
  case sent =>
    rw [exec, execLsend, onLora_built hb, if_neg (Nat.not_lt.2 hl)]
    extract_lets s₁ s₂ s₃ s₄ s₅
    have h₁ : BusWork s _ _ s₁ := (BusWork.start s).write (·.chip.opcSetPacketParams) (fun _ l => packetParams l false len) hs hm
    clear_value s₁
    have h₂ : BusWork s _ _ s₂ := h₁.write (·.chip.opcClearIrqStatus) (fun b _ => be16 b.chip.irqAll) hs hm
    clear_value s₂
    have h₃ : BusWork s _ _ s₃ :=
      h₂.write (·.chip.opcWriteBuffer) (fun _ l => 0x00 :: Memory.bytes .lpb l.lpb 0 len.toNat) hs hm
    clear_value s₃
    have h₄ : BusWork s _ _ s₄ := h₃.setPaEnable true
    clear_value s₄
    have h₅ : BusWork s _ _ s₅ := h₄.write (·.chip.opcSetTx) (fun b _ => be24 b.txTimeout) hs hm
    clear_value s₅
    obtain ⟨-, m, hbus, rfl⟩ := h₅
    exact ⟨m, hbus, rfl⟩

/-- `SetRx` (R275) after other bus work. -/
theorem setRx_work {t : State} {items : List BusItem} {f : State → State} (h : BusWork s items f t)
    (hs : s.lora.csAsserted = false) (hm : 1 ≤ s.build.maxAttempts) (tmo : BitVec 24) :
    ∃ u, BusWork s (items ++
        [.write s.build.chip.opcClearIrqStatus (be16 s.build.chip.irqAll), .pin .paEnable false,
          .write s.build.chip.opcSetRx (be24 tmo)]) (State.withPa false ∘ f) u ∧
      setRx tmo t = { u with lora.rxTimeout := tmo, lora.loraMode := .rx } := by
  generalize hr : setRx tmo t = r
  delta setRx at hr
  extract_lets s₁ s₂ s₃ at hr
  have h₁ : BusWork s _ _ s₁ := h.write (·.chip.opcClearIrqStatus) (fun b _ => be16 b.chip.irqAll) hs hm
  clear_value s₁
  have h₂ : BusWork s _ _ s₂ := h₁.setPaEnable false
  clear_value s₂
  have h₃ : BusWork s _ _ s₃ := h₂.write (·.chip.opcSetRx) (fun _ _ => be24 tmo) hs hm
  clear_value s₃
  rw [List.append_assoc, List.append_assoc] at h₃
  exact ⟨s₃, h₃, hr.symm⟩

/-! ### RF configuration (R278, R279) -/

/-- `PowerByte` (R120) is an entry of the table. -/
theorem pwrTable_powerByte (b : Build) (level : Byte) : b.pwrTable[min level.toNat 6]? = some (powerByte b level) :=
  Vector.getElem?_eq_getElem _

/-- Settles O46: SetRx for LSETRX; one write command, then the operand stored, for the other two. -/
theorem radioConfigResult : Obligations.RadioConfigResult := by
  unfold Obligations.RadioConfigResult
  intro s t hz level hb hs hm
  refine ⟨?lsetrx, ?lsetfreq, ?lsetpwr⟩
  case lsetrx =>
    obtain ⟨u, ⟨-, m, hbus, hu⟩, heq⟩ := setRx_work (.start s) hs hm t
    refine ⟨m, hbus, ?_⟩
    rw [exec, execLsetrx, onLora_built hb, heq, hu]
    rfl
  case lsetfreq =>
    generalize hfreq : exec (.lsetfreq hz) s = r
    rw [exec, execLsetfreq, onLora_built hb] at hfreq
    extract_lets m at hfreq
    exact ⟨m, doesBus_write _ _ s hs hm, hfreq.symm⟩
  case lsetpwr =>
    generalize hpwr : exec (.lsetpwr level) s = r
    rw [exec, execLsetpwr, onLora_built hb] at hpwr
    extract_lets m at hpwr
    exact ⟨_, m, pwrTable_powerByte _ level, doesBus_write _ _ s hs hm, hpwr.symm⟩

/-! ### Interrupt status (R273, R274, R276) -/

theorem getIrq_data (hs : s.lora.csAsserted = false) :
    ∃ h l m, getIrq s = (h ++ l, m) ∧ DoesBus s [.read s.build.chip.opcGetIrqStatus [] [h, l]] m := by
  obtain ⟨data, m, hr, hn, hm⟩ := readTransaction_data s.build.chip.opcGetIrqStatus [] 2 hs
  obtain ⟨h, l, rfl⟩ := List.length_eq_two.1 hn
  exact ⟨h, l, m, by rw [getIrq, hr]; rfl, hm⟩

/-- Settles O47: the second and the third transaction follow in the state the one before left. -/
theorem lrecvResult : Obligations.LrecvResult := by
  unfold Obligations.LrecvResult
  intro s cap hb hs
  obtain ⟨h, l, m₁, hirq, hm₁⟩ := getIrq_data hs
  have hs₁ : m₁.lora.csAsserted = false := hm₁.csAsserted.trans hs
  obtain ⟨data, m₂, hr₂, hn₂, hm₂⟩ := readTransaction_data s.build.chip.opcGetRxBufferStatus [] 2 hs₁
  obtain ⟨len, off, rfl⟩ := List.length_eq_two.1 hn₂
  have hm₁₂ := hm₁.trans hm₂
  have hs₂ : m₂.lora.csAsserted = false := hm₂.csAsserted.trans hs₁
  obtain ⟨data, m₃, hr₃, hn₃, hm₃⟩ := readTransaction_data s.build.chip.opcReadBuffer [off] len.toNat hs₂
  have hm₁₂₃ := hm₁₂.trans hm₃
  have hexec : exec (.lrecv cap) s =
      if (h ++ l) &&& (s.build.chip.irqCrcErr ||| s.build.chip.irqHeaderErr) ≠ 0 then m₁.respond .ok 0
      else if len = 0 ∨ cap.toNat < len.toNat then m₂.respond .ok 0
      else (storeLpb data m₃).respond .ok (len.setWidth 32) := by
    rw [exec, execLrecv, onLora_built hb, hirq]
    simp only [hm₁.build, hr₂, List.getD_cons_zero, List.getD_cons_succ, hm₂.build, hr₃]
  refine ⟨h, l, fun herr => ⟨m₁, hm₁, hexec.trans (if_pos herr)⟩, fun hgood => ⟨len, off, fun hlen => ?none, fun hlen hcap => ?packet⟩⟩
  all_goals replace hexec := hexec.trans (if_neg (not_not.2 hgood))
  case none => exact ⟨m₂, hm₁₂, hexec.trans (if_pos hlen)⟩
  case packet =>
    obtain ⟨lpb, hstored, heq⟩ := storeLpb_spec hm₁₂₃ hn₃
    refine ⟨data, m₃, lpb, hn₃, hm₁₂₃, hstored, hexec.trans ((if_neg (not_or.2 ⟨hlen, Nat.not_lt.2 hcap⟩)).trans ?_)⟩
    rw [heq]
    rfl

theorem DoesBus.loraMode {t : State} {items : List BusItem} (h : DoesBus s items t) : t.lora.loraMode = s.lora.loraMode := by
  obtain ⟨tr, y, e, -, -, rfl⟩ := h
  exact y.lora_loraMode _

theorem DoesBus.rxTimeout {t : State} {items : List BusItem} (h : DoesBus s items t) : t.lora.rxTimeout = s.lora.rxTimeout := by
  have hfield := congrArg Lora.rxTimeout h.settled
  exact hfield

/-- What LPOLL makes of the interrupt status `irq` once it is read (R276). -/
def pollAnswer (irq : Half) (s : State) : Result :=
  match s.lora.loraMode with
  | .rx =>
    if irq &&& s.build.chip.irqRxDone ≠ 0 then (raiseEvt .lrxDone { s with lora.loraMode := .standby }).respond .ok 1
    else if irq &&& s.build.chip.irqTimeout ≠ 0 then (raiseEvt .lTimeout { s with lora.loraMode := .standby }).respond .ok 2
    else s.respond .ok 0
  | .tx =>
    if irq &&& (s.build.chip.irqTxDone ||| s.build.chip.irqTimeout) ≠ 0 then
      let u := setPaEnable false (raiseEvt (if irq &&& s.build.chip.irqTxDone ≠ 0 then .ltxDone else .lTimeout) s)
      (setRx u.lora.rxTimeout { u with avail.txOff := true }).respond .ok (if irq &&& s.build.chip.irqTxDone ≠ 0 then 3 else 2)
    else s.respond .ok 0
  | .standby => s.respond .ok 0

theorem exec_lpoll (hb : s.build.backend = .lora) : exec .lpoll s = pollAnswer (getIrq s).1 (getIrq s).2 := onLora_built hb

theorem and_or_eq_zero {w : Nat} (x a b : BitVec w) : x &&& (a ||| b) = 0 ↔ x &&& a = 0 ∧ x &&& b = 0 := by
  rw [BitVec.and_or_distrib_left]
  exact BitVec.or_eq_zero_iff

/-- The end of a transmission (R276): the flag, PA off, "tx off", and receive again with the last timeout. -/
theorem pollAnswer_sent {m : State} {irq : Half} {items : List BusItem} (hm : DoesBus s items m) (hs : s.lora.csAsserted = false)
    (hmax : 1 ≤ s.build.maxAttempts) (htx : m.lora.loraMode = .tx)
    (hend : irq &&& m.build.chip.irqTxDone ≠ 0 ∨ irq &&& m.build.chip.irqTimeout ≠ 0) :
    ∃ u, DoesBus s (items ++ [.pin .paEnable false,
          .write s.build.chip.opcClearIrqStatus (be16 s.build.chip.irqAll), .pin .paEnable false,
          .write s.build.chip.opcSetRx (be24 s.lora.rxTimeout)]) u ∧
      pollAnswer irq m =
        .next (({ u with
                  lora.loraMode := .rx
                  lora.paEnable := false
                  avail.txOff := true
                  events.evt := u.events.evt ||| (if irq &&& m.build.chip.irqTxDone ≠ 0 then 0x0020 else 0x0010) } : State).withRsp
          .ok (if irq &&& m.build.chip.irqTxDone ≠ 0 then 3 else 2)) := by
  have hany : irq &&& (m.build.chip.irqTxDone ||| m.build.chip.irqTimeout) ≠ 0 := fun h => by
    obtain ⟨hnone, hnotime⟩ := (and_or_eq_zero _ _ _).1 h
    exact hend.elim (· hnone) (· hnotime)
  set flag : EvtFlag := if irq &&& m.build.chip.irqTxDone ≠ 0 then .ltxDone else .lTimeout with hflag
  have hmask : flag.mask = if irq &&& m.build.chip.irqTxDone ≠ 0 then 0x0020 else 0x0010 := by
    rw [hflag, apply_ite EvtFlag.mask]
    rfl
  have hwork := (((((BusWork.start s).andThen hm).update (.raiseEvt flag)).setPaEnable false).update
    (.avail fun a => { a with txOff := true }))
  obtain ⟨v, ⟨-, u, hbus, rfl⟩, heq⟩ := setRx_work hwork hs hmax m.lora.rxTimeout
  rw [List.nil_append, List.append_assoc, hm.rxTimeout] at hbus
  have hrx : m.lora.rxTimeout = u.lora.rxTimeout := hm.rxTimeout.trans hbus.rxTimeout.symm
  refine ⟨u, hbus, ?_⟩
  rw [pollAnswer, htx]
  refine (if_pos hany).trans ?_
  rw [← hmask]
  refine congrArg (fun t : State => t.respond .ok (if irq &&& m.build.chip.irqTxDone ≠ 0 then 3 else 2)) (heq.trans ?_)
  rw [hrx]
  rfl

/-- Settles O48: the status read, then the transition it calls for. -/
theorem lpollResult : Obligations.LpollResult := by
  unfold Obligations.LpollResult
  intro s hb hs hmax c
  obtain ⟨h, l, m, hirq, hm⟩ := getIrq_data hs
  have hexec : exec .lpoll s = pollAnswer (h ++ l) m := by rw [exec_lpoll hb, hirq]
  have hmode := hm.loraMode
  have hc : m.build.chip = c := congrArg Build.chip hm.build
  refine ⟨h, l, ?_⟩
  intro irqRead rxDone txDone timeout
  refine ⟨fun hnone => ⟨m, hm, hexec.trans ?nothing⟩, fun hrx hdone => ⟨m, hm, hexec.trans ?received⟩,
    fun hrx hdone htime => ⟨m, hm, hexec.trans ?timedOut⟩, fun htx hend => ?sent⟩
  case nothing =>
    obtain hstandby | ⟨hrx, hdone, htime⟩ | ⟨htx, hdone, htime⟩ := hnone
    · rw [pollAnswer, hmode, hstandby]
      rfl
    · rw [pollAnswer, hmode, hrx, hc]
      exact (if_neg hdone).trans (if_neg htime)
    · rw [pollAnswer, hmode, htx, hc]
      exact if_neg (not_not.2 ((and_or_eq_zero _ _ _).2 ⟨not_not.1 hdone, not_not.1 htime⟩))
  case received =>
    rw [pollAnswer, hmode, hrx, hc]
    exact if_pos hdone
  case timedOut =>
    rw [pollAnswer, hmode, hrx, hc]
    exact (if_neg hdone).trans (if_pos htime)
  case sent =>
    obtain ⟨u, hbus, heq⟩ := pollAnswer_sent hm hs hmax (hmode.trans htx) (by rwa [hc])
    rw [hc] at heq
    exact ⟨u, hbus, hexec.trans heq⟩

end

end Sys2Proof.Machine
end

section
/-! The availability contract (47_availability_system.md R306 to R310): REQUIRE and RELEASE, the bring-up of either back end, the
deferred power-down and the squelch edge. -/

namespace Sys2Proof.Machine

theorem satInc_zero : satInc (0 : Half) = 1 := by decide

theorem exec_require_of_used {s : State} (h : s.avail.useCount ≠ 0) :
    exec .require s =
      .next (({ s with avail.useCount := satInc s.avail.useCount } : State).withRsp .ok ((satInc s.avail.useCount).setWidth 32)) := by
  rw [exec, execRequire, if_neg h]
  rfl

/-- REQUIRE within the deferral window: the power-down owed is cancelled. -/
theorem exec_require_of_on {s : State} (h : s.avail.useCount = 0) (hon : s.avail.onOff = true) :
    exec .require s = .next (({ s with avail.useCount := 1, avail.pdPending := false } : State).withRsp .ok 1) := by
  rw [exec, execRequire, if_pos h, if_neg (by simp [hon]), h, satInc_zero]
  rfl

/-- REQUIRE from off: power, bring-up, "available". -/
theorem exec_require_of_off {s : State} (h : s.avail.useCount = 0) (hoff : s.avail.onOff = false) {u : State}
    (hu : bringUp (setOnOff true { s with avail.useCount := 1, avail.pdPending := false }) = u) :
    exec .require s =
      .next ((raiseEvt .avail { u with avail.available := true }).withRsp .ok (u.avail.useCount.setWidth 32)) := by
  rw [exec, execRequire, if_pos h, if_pos hoff, h, satInc_zero]
  simp only [hu]
  rfl

/-- Settles O49: the three cases of the count and the power. -/
theorem requireResult : Obligations.RequireResult := by
  unfold Obligations.RequireResult
  intro s
  refine ⟨fun h => ?used, exec_require_of_on, fun h hoff hb => ?off⟩
  case used => rw [exec_require_of_used h, satInc_eq]
  case off =>
    have hup : bringUp (setOnOff true { s with avail.useCount := 1, avail.pdPending := false }) =
        bringUpAfsk (setOnOff true { s with avail.useCount := 1, avail.pdPending := false }) := by
      simp [bringUp, hb]
    rw [exec_require_of_off h hoff hup]
    rfl

theorem exec_release_to {s : State} (h : s.avail.useCount ≠ 0) {c : Half} (hc : s.avail.useCount - 1 = c) :
    exec .release s =
      .next ((if c = 0 then { s with avail.useCount := c, avail.pdPending := true } else { s with avail.useCount := c }).withRsp
        .ok (c.setWidth 32)) := by
  rw [exec, execRelease, if_neg h, hc]
  dsimp only
  split
  · rfl
  · rfl

/-- Settles O51: the floor, the last user, any other. -/
theorem releaseResult : Obligations.ReleaseResult := by
  unfold Obligations.ReleaseResult
  intro s
  refine ⟨exec_release_of_unused, fun h => ?last, fun h => ?other⟩
  case last =>
    rw [exec_release_to (c := 0) (by bv_omega) (by bv_omega), if_pos rfl]
    rfl
  case other => rw [exec_release_to (by bv_omega) rfl, if_neg (by bv_omega)]

/-! ### Bring-up of the chip (R308) -/

theorem BusWork.wait {s t : State} {items : List BusItem} {f : State → State} (bound : Build → Nat) (h : BusWork s items f t) :
    BusWork s (items ++ [.wait (bound s.build) (waitBusy (bound t.build) t).1]) f (waitBusy (bound t.build) t).2 := by
  have hwork := h.andThen (doesBus_wait (bound t.build) t)
  rwa [h.build] at hwork ⊢

/-- The nine bring-up commands (R308, R119), payloads from the configuration registers. -/
def bringUpCommands (b : Build) (l : Lora) : List BusItem :=
  [ .write b.chip.opcSetStandby [0x00],
    .write b.chip.opcCalibrate [0x7F],
    .write b.chip.opcSetPacketType [0x01],
    .write b.chip.opcSetRfFrequency (be32 (freqWord b l.cfgFreq)),
    .write b.chip.opcSetTxParams [powerByte b l.cfgPwr, b.pwrRamp],
    .write b.chip.opcSetModulationParams [l.cfgSf.setWidth 8, l.cfgBw, l.cfgCr.setWidth 8, 0x00],
    .write b.chip.opcSetPacketParams (packetParams l (fixedLen l.pktFlags) 0xFF),
    .write b.chip.opcSetBufferBase [0x00, 0x00],
    .write b.chip.opcSetDioIrqParams (be16 b.chip.irqAll ++ [0x00, 0x00, 0x00, 0x00, 0x00, 0x00]) ]

/-- The mirrored mode back at standby. -/
def State.toStandby (s : State) : State := { s with lora.loraMode := .standby }

theorem BusInert.standby : BusInert State.toStandby :=
  ⟨fun _ => rfl, fun _ => rfl, fun _ => rfl, fun s tr y e => by
    obtain ⟨_, _, _ | _⟩ := y <;> rfl⟩

theorem bringUpCommands_settled (b : Build) (l : Lora) : bringUpCommands b l.settled = bringUpCommands b l := rfl

theorem bringUpLora_work {s t : State} {items : List BusItem} {f : State → State} (h : BusWork s items f t)
    (hs : s.lora.csAsserted = false) (hm : 1 ≤ s.build.maxAttempts) :
    ∃ idle u, BusWork s (items ++ [.pin .loraRst true, .pin .loraRst false, .wait s.build.pollAttempts idle]
        ++ bringUpCommands s.build s.lora ++ [.pin .paEnable false])
        (State.withPa false ∘ State.toStandby ∘ State.withRst false ∘ State.withRst true ∘ f) u ∧
      bringUpLora t = { u with avail.channelReady := true } := by
  generalize hr : bringUpLora t = r
  delta bringUpLora at hr
  extract_lets s₁ at hr
  have hpulse : BusWork s _ _ s₁ := (h.setLoraRst true).setLoraRst false
  have hwait := hpulse.wait (·.pollAttempts)
  generalize hw : waitBusyPolled s₁ = w at hr
  rw [← waitBusyPolled, hw] at hwait
  obtain ⟨idle, s₀⟩ := w
  dsimp -zeta only at hr hwait
  extract_lets s₁ s₂ s₃ s₄ s₅ s₆ s₇ s₈ s₉ l s₁₀ at hr
  have h₀ : BusWork s _ _ s₀ := hwait
  have h₁ : BusWork s _ _ s₁ := h₀.write (·.chip.opcSetStandby) (fun _ _ => [0x00]) hs hm
  clear_value s₁
  have h₂ : BusWork s _ _ s₂ := h₁.write (·.chip.opcCalibrate) (fun _ _ => [0x7F]) hs hm
  clear_value s₂
  have h₃ : BusWork s _ _ s₃ := h₂.write (·.chip.opcSetPacketType) (fun _ _ => [0x01]) hs hm
  clear_value s₃
  have h₄ : BusWork s _ _ s₄ := h₃.write (·.chip.opcSetRfFrequency) (fun b l => be32 (freqWord b l.cfgFreq)) hs hm
  clear_value s₄
  have h₅ : BusWork s _ _ s₅ := h₄.write (·.chip.opcSetTxParams) (fun b l => [powerByte b l.cfgPwr, b.pwrRamp]) hs hm
  clear_value s₅
  have h₆ : BusWork s _ _ s₆ := h₅.write (·.chip.opcSetModulationParams) (fun _ l => [l.cfgSf.setWidth 8, l.cfgBw, l.cfgCr.setWidth 8, 0x00]) hs hm
  clear_value s₆
  have h₇ : BusWork s _ _ s₇ := h₆.write (·.chip.opcSetPacketParams) (fun _ l => packetParams l (fixedLen l.pktFlags) 0xFF) hs hm
  clear_value s₇
  have h₈ : BusWork s _ _ s₈ := h₇.write (·.chip.opcSetBufferBase) (fun _ _ => [0x00, 0x00]) hs hm
  clear_value s₈
  have h₉ : BusWork s _ _ s₉ := h₈.write (·.chip.opcSetDioIrqParams) (fun b _ => be16 b.chip.irqAll ++ [0x00, 0x00, 0x00, 0x00, 0x00, 0x00]) hs hm
  clear_value s₉
  have h₁₀ : BusWork s _ _ s₁₀ := (h₉.update .standby).setPaEnable false
  clear_value s₁₀
  refine ⟨idle, s₁₀, ?_, hr.symm⟩
  rw [← bringUpCommands_settled]
  simpa only [bringUpCommands, List.append_assoc, List.cons_append, List.nil_append] using h₁₀

/-- Settles O50: power on, then the bring-up, then "available". -/
theorem requireBringsUpLora : Obligations.RequireBringsUpLora := by
  unfold Obligations.RequireBringsUpLora
  intro s hb hcount hoff hs hm c w
  have hpower := ((BusWork.start s).update (.avail fun a => { a with useCount := 1, pdPending := false })).setOnOff true
  obtain ⟨idle, u, hwork, hup⟩ := bringUpLora_work hpower hs hm
  obtain ⟨-, m, hbus, rfl⟩ := hwork
  refine ⟨powerByte s.build s.lora.cfgPwr, idle, m, pwrTable_powerByte _ _, hbus, ?_⟩
  have hbring : bringUp (setOnOff true { s with avail.useCount := 1, avail.pdPending := false }) =
      bringUpLora (setOnOff true { s with avail.useCount := 1, avail.pdPending := false }) := by
    simp [bringUp, hb]
  rw [exec_require_of_off hcount hoff (hbring.trans hup)]
  simp only [Function.comp, State.withPa, State.toStandby, State.withRst, id, raiseEvt]
  rfl

/-! ### The power-down worker and the squelch edge (R309, R310) -/

theorem step_of_powerDown {s : State} {rest : List Stimulus} (hag : s.env.agenda = .powerDown :: rest)
    (hup : s.env.rstN = true) : step s = .next (runPowerDown (s.begin rest)) :=
  (step_of_cons hag).trans (whileUp_up (s := s.begin rest) hup _)

theorem step_of_squelchEdge {s : State} {rest : List Stimulus} {v : Bool} (hag : s.env.agenda = .squelchEdge v :: rest)
    (hup : s.env.rstN = true) : step s = .next (squelchEdge v { s.begin rest with env.squelchOpen := v }) :=
  (step_of_cons hag).trans (whileUp_up (s := { s.begin rest with env.squelchOpen := v }) hup _)

theorem powerDown_afsk {s : State} (hb : s.build.backend = .afsk) :
    powerDown s =
      { s with
        avail.onOff := false
        avail.available := false
        avail.channelReady := false
        avail.pdPending := false
        events.evt := s.events.evt ||| 0x0200
        out.trace := s.out.trace ++ [.pin .radioPwr false] } := by
  simp only [powerDown, setOnOff_build, hb]
  rfl

theorem powerDown_lora {s : State} (hb : s.build.backend = .lora) :
    powerDown s =
      { s with
        avail.onOff := false
        avail.available := false
        avail.channelReady := false
        avail.pdPending := false
        lora.loraMode := .standby
        lora.paEnable := false
        events.evt := s.events.evt ||| 0x0200
        out.trace := s.out.trace ++ [.pin .radioPwr false] ++ [.pin .paEnable false] } := by
  simp only [powerDown, setOnOff_build, hb]
  rfl

/-- Settles O52: the worker's two cases and the two back ends; the edge in each case of R310. -/
theorem powerDownAndSquelchResult : Obligations.PowerDownAndSquelchResult := by
  unfold Obligations.PowerDownAndSquelchResult
  intro s rest hup u
  refine ⟨fun hag => ?worker, fun v hag => ?edge⟩
  case worker =>
    rw [step_of_powerDown hag hup]
    refine ⟨fun hno => ?disabled, fun hpd hcount hoff => ?enabled⟩
    case disabled => rw [runPowerDown_of_disabled (s := s.begin rest) fun h => hno ((powerDownEnabled_iff _).1 h)]; rfl
    case enabled =>
      have hrun : runPowerDown (s.begin rest) = powerDown (s.begin rest) :=
        if_pos ((powerDownEnabled_iff _).2 ⟨hpd, hcount, hoff⟩)
      rw [hrun]
      exact ⟨fun hb => congrArg Host.Outcome.next (powerDown_afsk (s := s.begin rest) hb),
        fun hb => congrArg Host.Outcome.next (powerDown_lora (s := s.begin rest) hb)⟩
  case edge =>
    rw [step_of_squelchEdge hag hup]
    refine ⟨fun hb hav => ?ready, fun hno => ?still⟩
    case ready => rw [squelchEdge, if_pos ⟨hb, hav⟩]; rfl
    case still => rw [squelchEdge, if_neg fun h => hno.elim (· h.1) fun hav => Bool.false_ne_true (hav.symm.trans h.2)]; rfl

end Sys2Proof.Machine
end

section
/-! What the operations and events leave alone: the build, the schedule, the event flags that are set, the clock mode, the tone and the
ring but for the provisional frame; and that they leave the bus idle when it was (45_lora_primitives.md R241, R245, R246). Bus work is
one case of it, whether or not the chip was selected before. -/

namespace Sys2Proof.Machine

/-! ### Properties of the state an operation leaves -/

/-- The state `k` answers, if any, has the property. -/
def Leaves (k : Result) (P : State → Prop) : Prop := ∀ t, k = .next t → P t

namespace Leaves

variable {s t : State} {k k' : Result} {P : State → Prop}

theorem next (h : P t) : Leaves (.next t) P := by
  rintro _ ⟨⟩
  exact h

theorem respond {st : Status} {v : Word} (h : P (t.withRsp st v)) : Leaves (t.respond st v) P := .next h

theorem ite {c : Prop} [Decidable c] (h : c → Leaves k P) (h' : ¬ c → Leaves k' P) :
    Leaves (if c then k else k') P := by
  split
  · exact h ‹_›
  · exact h' ‹_›

theorem onAfsk (hr : ∀ st, P (s.withRsp st 0)) (h : s.build.backend = .afsk → Leaves k P) : Leaves (onAfsk s k) P :=
  .ite h fun _ => .respond (hr _)

theorem onLora (hr : ∀ st, P (s.withRsp st 0)) (h : s.build.backend = .lora → Leaves k P) : Leaves (onLora s k) P :=
  .ite h fun _ => .respond (hr _)

theorem onRing (hr : ∀ st, P (s.withRsp st 0)) (h : s.build.backend = .afsk → Leaves k P) : Leaves (onRing s k) P :=
  .onAfsk hr fun hb => .ite (fun _ => h hb) fun _ => .respond (hr _)

end Leaves

/-! ### Brackets -/

theorem Bracketed.append {sel : Bool} {tr : List BusEvent} (h : Bracketed sel tr = true) (tr' : List BusEvent) :
    Bracketed sel (tr ++ tr') = Bracketed false tr' := by
  induction tr generalizing sel with
  | nil =>
    cases sel
    · rfl
    · cases h
  | cons ev tr ih =>
    cases ev <;> simp only [Bracketed, Bool.and_eq_true, List.cons_append] at h ⊢ <;> rw [ih h.2, h.1, Bool.true_and]

/-- Transfers within a bracket. -/
theorem Bracketed.transfers {xs : List (Byte × Byte)} (tr : List BusEvent) :
    Bracketed true (xs.map (fun x => .xfer x.1 x.2) ++ tr) = Bracketed true tr := by
  induction xs with
  | nil => rfl
  | cons x xs ih => exact ih

theorem BusyWait.bracketed {T : Nat} {idle : Bool} {tr : List BusEvent} (h : BusyWait T idle tr) : Bracketed false tr = true := by
  have polls (n : Nat) : Bracketed false (List.replicate n (.poll true)) = true := by
    induction n with
    | zero => rfl
    | succ n ih => exact ih
  unfold BusyWait at h
  split at h
  · obtain ⟨j, -, rfl⟩ := h
    exact (Bracketed.append (polls j) _).trans rfl
  · exact h ▸ polls T

theorem PayloadTrace.bracketed {c : ChipTable} {pay : List Byte} {tr : List BusEvent} {st : LoraOutcome} (h : PayloadTrace c pay tr st)
    (tr' : List BusEvent) : Bracketed true (tr ++ tr') = Bracketed true tr' := by
  induction h with
  | done | bad _ => rfl
  | good _ _ ih => exact ih

theorem AttemptTrace.bracketed {c : ChipTable} {T w : Nat} {opc : Byte} {pay : List Byte} {tr : List BusEvent} {st : LoraOutcome}
    (h : AttemptTrace c T opc pay tr st w) : Bracketed false tr = true := by
  obtain ⟨h₁, ht, h₂⟩ := h
  simp only [List.append_assoc]
  rw [Bracketed.append h₁.bracketed]
  exact (ht.bracketed _).trans h₂.bracketed

theorem CommandTrace.bracketed {c : ChipTable} {T left k w : Nat} {opc : Byte} {pay : List Byte} {tr : List BusEvent}
    {st : LoraOutcome} (h : CommandTrace c T opc pay left tr st k w) : Bracketed false tr = true := by
  induction h with
  | success ha | abandoned ha _ => exact ha.bracketed
  | again ha _ _ ih => rw [Bracketed.append ha.bracketed, ih]

theorem Drives.bracketed {outs : List Byte} {tr : List BusEvent} (h : Drives outs tr) (tr' : List BusEvent) :
    Bracketed true (tr ++ tr') = Bracketed true tr' := by
  obtain ⟨ins, -, rfl⟩ := h
  rw [← List.map_uncurry_zip_eq_zipWith]
  exact Bracketed.transfers tr'

theorem BusTrace.bracketed {b : Build} {T : Nat} {items : List BusItem} {tr : List BusEvent} {y : Tally}
    (h : BusTrace b T items tr y) : Bracketed false tr = true := by
  induction h with
  | nil => rfl
  | write hc _ ih => rw [Bracketed.append hc.bracketed, ih]
  | @read _ _ data _ _ _ _ _ _ _ _ h₁ hd h₂ _ ih =>
    have hdata := Bracketed.transfers (xs := data.map fun i => (b.chip.nopByte, i))
    rw [List.map_map] at hdata
    simp only [List.append_assoc]
    rw [Bracketed.append h₁.bracketed]
    refine (hd.bracketed _).trans ((hdata _).trans ?_)
    exact (Bracketed.append h₂.bracketed _).trans ih
  | wait hw _ ih => rw [Bracketed.append hw.bracketed, ih]
  | pin _ ih => exact ih

/-- Nothing open on the bus: what it has done is bracketed and the chip is deselected. -/
def Idle (s : State) : Prop := Bracketed false s.out.trace = true ∧ s.lora.csAsserted = false

theorem Idle.event {s : State} {e : BusEvent} (h : Idle s) (he : Bracketed false [e] = true) {t : State}
    (ht : t.out.trace = s.out.trace ++ [e]) (hcs : t.lora.csAsserted = s.lora.csAsserted) : Idle t :=
  ⟨by rw [ht, Bracketed.append h.1, he], hcs.trans h.2⟩

theorem State.afterBus_idle {s : State} {tr : List BusEvent} (hb : Bracketed false tr = true) (y : Tally) (e : Env) (h : Idle s) :
    Idle (s.afterBus tr y e) :=
  ⟨by rw [State.afterBus_trace, Bracketed.append h.1, hb], (y.lora_csAsserted _).trans h.2⟩

/-! ### Frames -/

/-- What every operation but SRESET, EVCLR and SETMODE leaves alone. -/
structure Quiet (s t : State) : Prop where
  build : t.build = s.build
  agenda : t.env.agenda = s.env.agenda
  rstN : t.env.rstN = s.env.rstN
  evt : ∀ k, s.events.evt.getLsbD k = true → t.events.evt.getLsbD k = true
  clkMode : t.clk.clkMode = s.clk.clkMode
  toneSel : t.tx.toneSel = s.tx.toneSel
  idle : Idle s → Idle t

/-- The same, and of the ring only the provisional frame may change. -/
structure Still (s t : State) : Prop extends Quiet s t where
  ring : ∃ start len, t.ring = { s.ring with provisionalFrameStart := start, provisionalFrameLength := len }

theorem Quiet.refl (s : State) : Quiet s s := ⟨rfl, rfl, rfl, fun _ => id, rfl, rfl, id⟩

theorem Still.refl (s : State) : Still s s := ⟨.refl s, _, _, rfl⟩

section
variable {s t u : State}

theorem Quiet.trans (h : Quiet s t) (h' : Quiet t u) : Quiet s u :=
  ⟨h'.build.trans h.build, h'.agenda.trans h.agenda, h'.rstN.trans h.rstN, fun k hk => h'.evt k (h.evt k hk),
    h'.clkMode.trans h.clkMode, h'.toneSel.trans h.toneSel, fun hs => h'.idle (h.idle hs)⟩

theorem Still.trans (h : Still s t) (h' : Still t u) : Still s u := by
  obtain ⟨start, len, hr⟩ := h.ring
  obtain ⟨start', len', hr'⟩ := h'.ring
  exact ⟨h.toQuiet.trans h'.toQuiet, start', len', by rw [hr', hr]⟩

theorem Still.rsp (h : Still s t) (st : Status) (v : Word) : Still s (t.withRsp st v) := { h with }

theorem Still.refused (s : State) (st : Status) : Still s (s.withRsp st 0) := (Still.refl s).rsp st 0

theorem Still.lora (h : Still s t) (l : Lora) (hl : l.csAsserted = t.lora.csAsserted := by rfl) : Still s { t with lora := l } :=
  { h with idle := fun hs => ⟨(h.idle hs).1, hl.trans (h.idle hs).2⟩ }

theorem Still.storeLpb (h : Still s t) (data : List Byte) : Still s (storeLpb data t) := h.lora _

theorem Still.avail (h : Still s t) (a : Avail) : Still s { t with avail := a } := { h with }

theorem Still.cap (h : Still s t) (c : Capture) : Still s { t with cap := c } := { h with }

end

theorem raiseEvt_still (flag : EvtFlag) (s : State) : Still s (raiseEvt flag s) :=
  { Still.refl s with evt := fun k hk => by simp [raiseEvt, hk] }

theorem nextFrame_still (s : State) : Still s (nextFrame s) := { Still.refl s with ring := ⟨_, _, rfl⟩ }

theorem setPaEnable_still (v : Bool) (s : State) : Still s (setPaEnable v s) :=
  { Still.refl s with idle := fun h => h.event (e := .pin .paEnable v) rfl rfl rfl }

theorem setLoraRst_still (v : Bool) (s : State) : Still s (setLoraRst v s) :=
  { Still.refl s with idle := fun h => h.event (e := .pin .loraRst v) rfl rfl rfl }

theorem setOnOff_still (v : Bool) (s : State) : Still s (setOnOff v s) :=
  { Still.refl s with idle := fun h => h.event (e := .pin .radioPwr v) rfl rfl rfl }

/-! ### Bus work -/

theorem Replay.schedule {tr : List BusEvent} {e e' : Env} (h : Replay tr e e') : e'.agenda = e.agenda ∧ e'.rstN = e.rstN := by
  induction tr generalizing e with
  | nil => rw [show e' = e from h]; exact ⟨rfl, rfl⟩
  | cons ev tr ih =>
    cases ev with
    | poll v =>
      obtain ⟨ha, hr⟩ := ih h.2
      have hnext : e.nextBusy.2.agenda = e.agenda ∧ e.nextBusy.2.rstN = e.rstN := by
        unfold Env.nextBusy
        split <;> exact ⟨rfl, rfl⟩
      exact ⟨ha.trans hnext.1, hr.trans hnext.2⟩
    | xfer o i =>
      obtain ⟨ha, hr⟩ := ih h.2
      have hnext : e.nextByte.2.agenda = e.agenda ∧ e.nextByte.2.rstN = e.rstN := by
        unfold Env.nextByte
        split <;> exact ⟨rfl, rfl⟩
      exact ⟨ha.trans hnext.1, hr.trans hnext.2⟩
    | select => exact ih (e := e) h
    | deselect => exact ih (e := e) h
    | pin p v => exact ih (e := e) h

theorem State.afterBus_still {s : State} {tr : List BusEvent} {e : Env} (h : Replay tr s.env e) (hb : Bracketed false tr = true)
    (y : Tally) : Still s (s.afterBus tr y e) where
  build := rfl
  agenda := h.schedule.1
  rstN := h.schedule.2
  evt k hk := by simp [Tally.events, hk]
  clkMode := rfl
  toneSel := rfl
  idle := State.afterBus_idle hb y e
  ring := ⟨_, _, rfl⟩

theorem DoesBus.still {s t : State} {items : List BusItem} (h : DoesBus s items t) : Still s t := by
  obtain ⟨tr, y, e, hb, hr, rfl⟩ := h
  exact State.afterBus_still hr hb.bracketed y

/-! ### Transactions do not see whether the chip was selected -/

/-- The level of chip-select without its event. -/
def State.withCs (v : Bool) (s : State) : State := { s with lora.csAsserted := v }

theorem waitBusy_withCs (T : Nat) (v : Bool) (s : State) :
    waitBusy T (s.withCs v) = ((waitBusy T s).1, (waitBusy T s).2.withCs v) := by
  induction T generalizing s with
  | zero => rfl
  | succ T ih =>
    have hpoll : pollBusy (s.withCs v) = ((pollBusy s).1, (pollBusy s).2.withCs v) := by
      rw [pollBusy_eq, pollBusy_eq]
      rfl
    simp only [waitBusy, hpoll]
    split
    · exact ih _
    · rfl

theorem selectChip_withCs (v : Bool) (s : State) : selectChip (s.withCs v) = selectChip s := rfl

theorem writeAttempt_withCs (opc : Byte) (pay : List Byte) (v : Bool) (s : State) :
    writeAttempt opc pay (s.withCs v) = writeAttempt opc pay s := by
  have hT : (s.withCs v).lora.busyTimeout = s.lora.busyTimeout := rfl
  simp only [writeAttempt, waitBusySingle, hT, waitBusy_withCs, selectChip_withCs]

theorem retryLoop_withCs (opc : Byte) (pay : List Byte) (left k : Nat) (v : Bool) (s : State) :
    retryLoop opc pay left k (s.withCs v) = retryLoop opc pay left k s := by
  cases left with
  | zero => rw [retryLoop, retryLoop, writeAttempt_withCs]
  | succ left => rw [retryLoop, retryLoop, writeAttempt_withCs]

theorem writeCommand_withCs (opc : Byte) (pay : List Byte) (v : Bool) (s : State) :
    writeCommand opc pay (s.withCs v) = writeCommand opc pay s := by
  have hm : (s.withCs v).build.maxAttempts = s.build.maxAttempts := rfl
  rw [writeCommand, writeCommand, hm, retryLoop_withCs]

theorem readTransaction_withCs (opc : Byte) (pre : List Byte) (n : Nat) (v : Bool) (s : State) :
    readTransaction opc pre n (s.withCs v) = readTransaction opc pre n s := by
  have hT : (s.withCs v).lora.busyTimeout = s.lora.busyTimeout := rfl
  simp only [readTransaction, waitBusySingle, hT, waitBusy_withCs, selectChip_withCs]

theorem Still.of_withCs {s t : State} (h : Still (s.withCs false) t) : Still s t := { h with idle := fun hs => h.idle ⟨hs.1, rfl⟩ }

/-! ### Procedures of the sequencer -/

theorem waitBusy_still (T : Nat) (s : State) : Still s (waitBusy T s).2 := (doesBus_wait T s).still

theorem readTransaction_still (opc : Byte) (pre : List Byte) (n : Nat) (s : State) :
    Still s (readTransaction opc pre n s).2 := by
  rw [← readTransaction_withCs opc pre n false s]
  exact (doesBus_read opc pre n (s.withCs false) rfl).2.still.of_withCs

theorem logFailure_still (s : State) : Still s (logFailure s) := by
  rw [logFailure_eq]
  exact State.afterBus_still (tr := []) rfl rfl _

theorem writeCommand_still (opc : Byte) (pay : List Byte) (s : State) : Still s (writeCommand opc pay s) := by
  obtain ⟨tr, n, w, e, hc, hr, -, he⟩ := retryLoop_spec opc pay (s.build.maxAttempts - 1) 1 (s.withCs false) rfl
  rw [retryLoop_withCs] at he
  have hloop : Still s (retryLoop opc pay (s.build.maxAttempts - 1) 1 s).2.2 := by
    rw [he]
    exact (State.afterBus_still hr hc.bracketed _).of_withCs
  unfold writeCommand
  generalize retryLoop opc pay (s.build.maxAttempts - 1) 1 s = r at hloop
  obtain ⟨st, k, u⟩ := r
  dsimp only at hloop ⊢
  split
  · exact hloop.lora _
  · exact (hloop.lora _).trans (logFailure_still _)

theorem getIrq_still (s : State) : Still s (getIrq s).2 := by
  have hread := readTransaction_still s.build.chip.opcGetIrqStatus [] 2 s
  unfold getIrq
  generalize readTransaction s.build.chip.opcGetIrqStatus [] 2 s = r at hread ⊢
  exact hread

theorem setRx_still (t : BitVec 24) (s : State) : Still s (setRx t s) := by
  delta setRx
  extract_lets s₁ s₂ s₃
  have h₁ : Still s s₁ := writeCommand_still _ _ s
  clear_value s₁
  have h₂ : Still s s₂ := h₁.trans (setPaEnable_still false s₁)
  clear_value s₂
  have h₃ : Still s s₃ := h₂.trans (writeCommand_still _ _ s₂)
  clear_value s₃
  exact h₃.lora _

theorem bringUpLora_still (s : State) : Still s (bringUpLora s) := by
  delta bringUpLora
  extract_lets p
  have hp : Still s p := (setLoraRst_still true s).trans (setLoraRst_still false _)
  clear_value p
  have h₀ := hp.trans (waitBusy_still p.build.pollAttempts p)
  rw [← waitBusyPolled] at h₀
  generalize waitBusyPolled p = w at h₀ ⊢
  obtain ⟨idle, s₀⟩ := w
  dsimp -zeta only at h₀ ⊢
  extract_lets s₁ s₂ s₃ s₄ s₅ s₆ s₇ s₈ s₉ l s₁₀
  have h₁ : Still s s₁ := h₀.trans (writeCommand_still _ _ s₀)
  clear_value s₁
  have h₂ : Still s s₂ := h₁.trans (writeCommand_still _ _ s₁)
  clear_value s₂
  have h₃ : Still s s₃ := h₂.trans (writeCommand_still _ _ s₂)
  clear_value s₃
  have h₄ : Still s s₄ := h₃.trans (writeCommand_still _ _ s₃)
  clear_value s₄
  have h₅ : Still s s₅ := h₄.trans (writeCommand_still _ _ s₄)
  clear_value s₅
  have h₆ : Still s s₆ := h₅.trans (writeCommand_still _ _ s₅)
  clear_value s₆
  have h₇ : Still s s₇ := h₆.trans (writeCommand_still _ _ s₆)
  clear_value s₇
  have h₈ : Still s s₈ := h₇.trans (writeCommand_still _ _ s₇)
  clear_value s₈
  have h₉ : Still s s₉ := h₈.trans (writeCommand_still _ _ s₈)
  clear_value s₉
  have h₁₀ : Still s s₁₀ := (h₉.lora _).trans (setPaEnable_still false _)
  clear_value s₁₀
  exact h₁₀.avail _

theorem bringUp_still (s : State) : Still s (bringUp s) := by
  unfold bringUp
  cases s.build.backend with
  | afsk => exact (Still.refl s).avail _
  | lora => exact bringUpLora_still s

/-! ### Operations -/

/-- Operations that change what `Still` keeps: an event flag, the clock mode, or the ring beyond its provisional frame. -/
def isMarkOp (i : Instr) : Bool :=
  match i with
  | .sreset | .evclr _ | .setmode _ | .rbput _ | .rbget | .rbreset | .rblast => true
  | _ => false

theorem exec_codecOp_still {i : Instr} (hi : isCodecOp i = true) (s : State) : Leaves (exec i s) (Still s) := by
  obtain ⟨c, r, h, -⟩ := codecIsPure i s s hi rfl rfl rfl
  rw [h]
  exact .next { Still.refl s with }

theorem Reg.write_still (r : Reg) (v : Word) (s : State) : Still s (r.write v s) := by
  cases r <;> exact { Still.refl s with }

theorem execRequire_still (s : State) : Leaves (execRequire s) (Still s) := by
  refine .respond (.rsp ?_ _ _)
  dsimp only
  split
  · split
    · exact ((((Still.refl s).avail _).trans (setOnOff_still true _)).trans (bringUp_still _)).trans
        (((Still.refl _).avail _).trans (raiseEvt_still .avail _))
    · exact (Still.refl s).avail _
  · exact (Still.refl s).avail _

theorem execWrreg_still (idx : Byte) (v : Word) (s : State) : Leaves (execWrreg idx v s) (Still s) := by
  unfold execWrreg
  cases Reg.ofIndex idx with
  | none => exact .respond (.refused s _)
  | some r =>
    refine .ite (fun _ => ?_) fun _ => .respond (.refused s _)
    cases r.writeMask? with
    | none => exact .respond (.refused s _)
    | some m => exact .ite (fun _ => .respond ((r.write_still v s).rsp _ _)) fun _ => .respond (.refused s _)

theorem execRdreg_still (idx : Byte) (s : State) : Leaves (execRdreg idx s) (Still s) := by
  unfold execRdreg
  cases Reg.ofIndex idx with
  | none => exact .respond (.refused s _)
  | some r => exact .ite (fun _ => .respond ((Still.refl s).rsp _ _)) fun _ => .respond (.refused s _)

theorem loadNext_still (s : State) : Still s (loadNext s) := by
  obtain ⟨-, h⟩ | ⟨-, b, q, -, h⟩ | ⟨-, -, h⟩ := loadNext_cases s <;> rw [h] <;> exact { Still.refl s with }

theorem execTxstart_still (s : State) : Leaves (execTxstart s) (Still s) := by
  refine .onAfsk (.refused s) fun _ => .ite (fun _ => .respond (.refused s _)) fun _ => .ite (fun _ => .respond (.refused s _))
    fun _ => .respond (.rsp ?_ _ _)
  refine Still.trans ?_ (loadNext_still _)
  exact { Still.refl s with }

theorem execLwait_still (form : WaitForm) (t : Half) (s : State) : Leaves (execLwait form t s) (Still s) := by
  refine .onLora (.refused s) fun _ => .ite (fun _ => .respond (.refused s _)) fun _ => .respond (.rsp ?_ _ _)
  cases form with
  | polled => exact waitBusy_still _ s
  | single =>
    dsimp only
    split
    · exact waitBusy_still _ s
    · exact waitBusy_still _ s

theorem execLsend_still (len : Byte) (s : State) : Leaves (execLsend len s) (Still s) := by
  refine .onLora (.refused s) fun _ => .ite (fun _ => .respond (.refused s _)) fun _ => ?_
  extract_lets s₁ s₂ s₃ s₄ s₅
  have h₁ : Still s s₁ := writeCommand_still _ _ s
  clear_value s₁
  have h₂ : Still s s₂ := h₁.trans (writeCommand_still _ _ s₁)
  clear_value s₂
  have h₃ : Still s s₃ := h₂.trans (writeCommand_still _ _ s₂)
  clear_value s₃
  have h₄ : Still s s₄ := h₃.trans (setPaEnable_still true s₃)
  clear_value s₄
  have h₅ : Still s s₅ := h₄.trans (writeCommand_still _ _ s₄)
  clear_value s₅
  exact .respond { h₅ with }

theorem execLsetfreq_still (hz : Word) (s : State) : Leaves (execLsetfreq hz s) (Still s) := by
  refine .onLora (.refused s) fun _ => ?_
  extract_lets m
  have hm : Still s m := writeCommand_still _ _ s
  clear_value m
  exact .respond ((hm.lora _).rsp _ _)

theorem execLsetpwr_still (level : Byte) (s : State) : Leaves (execLsetpwr level s) (Still s) := by
  refine .onLora (.refused s) fun _ => ?_
  extract_lets m
  have hm : Still s m := writeCommand_still _ _ s
  clear_value m
  exact .respond ((hm.lora _).rsp _ _)

theorem execLrcmd_still (opc p n : Byte) (s : State) : Leaves (execLrcmd opc p n s) (Still s) := by
  unfold execLrcmd
  dsimp only
  exact .onLora (.refused s) fun _ => .ite (fun _ => .respond (.refused s _)) fun _ =>
    .respond (((readTransaction_still opc _ _ s).storeLpb _).rsp _ _)

theorem execLrecv_still (cap : Half) (s : State) : Leaves (execLrecv cap s) (Still s) := by
  unfold execLrecv
  dsimp only
  have h₁ := getIrq_still s
  generalize getIrq s = r₁ at h₁ ⊢
  have h₂ := h₁.trans (readTransaction_still r₁.2.build.chip.opcGetRxBufferStatus [] 2 r₁.2)
  generalize readTransaction r₁.2.build.chip.opcGetRxBufferStatus [] 2 r₁.2 = r₂ at h₂ ⊢
  exact .onLora (.refused s) fun _ => .ite (fun _ => .respond (h₁.rsp _ _)) fun _ => .ite (fun _ => .respond (h₂.rsp _ _))
    fun _ => .respond (((h₂.trans (readTransaction_still _ _ _ r₂.2)).storeLpb _).rsp _ _)

theorem pollAnswer_still (irq : Half) (s : State) : Leaves (pollAnswer irq s) (Still s) := by
  have done (flag : EvtFlag) : Still s (raiseEvt flag { s with lora.loraMode := .standby }) :=
    ((Still.refl s).lora _).trans (raiseEvt_still flag _)
  unfold pollAnswer
  cases s.lora.loraMode with
  | standby => exact .respond ((Still.refl s).rsp _ _)
  | rx =>
    exact .ite (fun _ => .respond ((done .lrxDone).rsp _ _)) fun _ => .ite (fun _ => .respond ((done .lTimeout).rsp _ _))
      fun _ => .respond ((Still.refl s).rsp _ _)
  | tx =>
    refine .ite (fun _ => ?_) fun _ => .respond ((Still.refl s).rsp _ _)
    extract_lets u
    have hu : Still s u := (raiseEvt_still _ s).trans (setPaEnable_still false _)
    clear_value u
    exact .respond (((hu.avail _).trans (setRx_still _ _)).rsp _ _)

theorem execLpoll_still (s : State) : Leaves (execLpoll s) (Still s) :=
  .onLora (.refused s) fun _ t ht => (getIrq_still s).trans (pollAnswer_still _ _ t ht)

theorem exec_still {i : Instr} (hi : isMarkOp i = false) (s : State) : Leaves (exec i s) (Still s) := by
  cases i with
  | sreset | evclr | setmode | rbput | rbget | rbreset | rblast => cases hi
  | strclr | strput | strget | s2a | a2s | axflg | axrd | axssid | axndigi | axctl | axenc | axdec | s2d | d2s | axbclr | axbput
  | axbget => exact exec_codecOp_still rfl s
  | require => exact execRequire_still s
  | release =>
    refine .ite (fun _ => .respond ((Still.refl s).rsp _ _)) fun _ => .respond ?_
    split <;> exact { Still.refl s with }
  | rdreg idx => exact execRdreg_still idx s
  | wrreg idx v => exact execWrreg_still idx v s
  | nop => exact .respond (.refused s _)
  | clkstop | ptt => exact .onAfsk (.refused s) fun _ => .respond { Still.refl s with }
  | txqpush => exact .onAfsk (.refused s) fun _ => .ite (fun _ => .respond (.refused s _)) fun _ => .respond { Still.refl s with }
  | txstart => exact execTxstart_still s
  | rbeof | capstop => exact .onRing (.refused s) fun _ => .respond { Still.refl s with }
  | rbnext =>
    exact .onRing (.refused s) fun _ => .ite (fun _ => .respond (.refused s _)) fun _ => .respond ((nextFrame_still s).rsp _ _)
  | capstart =>
    exact .onRing (.refused s) fun _ => .ite (fun _ => .respond (.refused s _)) fun _ => .respond { nextFrame_still s with }
  | lpbclr => exact .onLora (.refused s) fun _ => .respond { Still.refl s with }
  | lpbput | lpbrd =>
    exact .onLora (.refused s) fun _ => .ite (fun _ => .respond (.refused s _)) fun _ => .respond { Still.refl s with }
  | lwcmd | lwbuf =>
    exact .onLora (.refused s) fun _ => .ite (fun _ => .respond (.refused s _)) fun _ =>
      .respond ((writeCommand_still _ _ s).rsp _ _)
  | lwreg => exact .onLora (.refused s) fun _ => .respond ((writeCommand_still _ _ s).rsp _ _)
  | lsend len => exact execLsend_still len s
  | lsetrx t => exact .onLora (.refused s) fun _ => .respond ((setRx_still t s).rsp _ _)
  | lsetfreq hz => exact execLsetfreq_still hz s
  | lsetpwr level => exact execLsetpwr_still level s
  | lrcmd opc p n => exact execLrcmd_still opc p n s
  | lrecv cap => exact execLrecv_still cap s
  | lrreg addr =>
    simp only [exec, execLrreg]
    exact .onLora (.refused s) fun _ => .respond ((readTransaction_still _ _ _ s).rsp _ _)
  | lrssi =>
    simp only [exec, execLrssi]
    exact .onLora (.refused s) fun _ => .respond ((readTransaction_still _ _ _ s).rsp _ _)
  | lrbuf off n =>
    simp only [exec, execLrbuf]
    exact .onLora (.refused s) fun _ => .respond (((readTransaction_still _ _ _ s).storeLpb _).rsp _ _)
  | lpktst =>
    simp only [exec, execLpktst]
    exact .onLora (.refused s) fun _ => .respond (((readTransaction_still _ _ _ s).storeLpb _).rsp _ _)
  | lpoll => exact execLpoll_still s
  | lwait form t => exact execLwait_still form t s

end Sys2Proof.Machine
end

section
/-! Rules of the whole block (10_state.md R24, R28, R36, 43_modulator.md R188): the steps that clear an event flag, change the clock
mode or the tone, and those that write the ring memory. -/

namespace Sys2Proof.Machine

/-! ### What the ring's producer does -/

/-- Either the ring is still but for the provisional frame, or the producer has stored one sample, which it does not do on the oldest
unread one (R132). -/
structure Produces (s t : State) : Prop where
  build : t.build = s.build
  agenda : t.env.agenda = s.env.agenda
  rstN : t.env.rstN = s.env.rstN
  ring : (∃ start len, t.ring = { s.ring with provisionalFrameStart := start, provisionalFrameLength := len }) ∨
    (¬ (0 < s.unread ∧ s.ring.writeCursor = s.ring.readCursor) ∧ ∃ v start len,
      t.ring = { s.ring with
        buf := Memory.write s.ring.buf s.ring.writeCursor v
        writeCursor := (s.ring.writeCursor + 1) % s.build.ringCap
        provisionalFrameStart := start
        provisionalFrameLength := len })

section
variable {s t u : State}

theorem Still.produces (h : Still s t) : Produces s t := ⟨h.build, h.agenda, h.rstN, .inl h.ring⟩

theorem Produces.refl (s : State) : Produces s s := (Still.refl s).produces

theorem Produces.andStill (h : Produces s t) (h' : Still t u) : Produces s u where
  build := h'.build.trans h.build
  agenda := h'.agenda.trans h.agenda
  rstN := h'.rstN.trans h.rstN
  ring := by
    obtain ⟨start, len, hu⟩ := h'.ring
    obtain ⟨_, _, ht⟩ | ⟨hfree, v, _, _, ht⟩ := h.ring
    · exact .inl ⟨start, len, by rw [hu, ht]⟩
    · exact .inr ⟨hfree, v, start, len, by rw [hu, ht]⟩

theorem Produces.of_cap {c : Capture} (h : Produces { s with cap := c } t) : Produces s t := { h with }

/-- The sample under the reader stays. -/
theorem Produces.unread_kept (h : Produces s t) (hun : 0 < s.unread) :
    Memory.byteAt .buf t.ring.buf s.ring.readCursor = Memory.byteAt .buf s.ring.buf s.ring.readCursor := by
  obtain ⟨_, _, hr⟩ | ⟨hfree, v, _, _, hr⟩ := h.ring
  · rw [hr]
  · rw [hr, Memory.byteAt_write, if_neg fun he => hfree ⟨hun, he.symm⟩]

end

theorem put_quiet (v : Byte) (s : State) : Quiet s (put v s) := by
  obtain ⟨buf, wc, len, h⟩ := put_frame v s
  rw [h]
  exact { Quiet.refl s with }

theorem put_produces (v : Byte) (s : State) : Produces s (put v s) := by
  obtain ⟨h, -⟩ | ⟨hfree, -, h⟩ := put_cases v s
  · rw [h]
    exact .refl s
  · rw [h]
    exact ⟨rfl, rfl, rfl, .inr ⟨hfree, v, _, _, rfl⟩⟩

theorem boundary_still (s : State) : Still s (boundary s) := by
  obtain ⟨-, h⟩ | ⟨-, -, h⟩ | ⟨-, -, h⟩ := boundary_cases s
  · rw [h]
    exact .refl s
  · rw [h]
    exact { Still.refl s with evt := fun k hk => by simp [hk], ring := ⟨_, _, rfl⟩ }
  · rw [h]
    exact { Still.refl s with evt := fun k hk => by simp [hk] }

/-! ### Operations -/

theorem exec_setmode_leaves (m : ClkMode) (s : State) :
    Leaves (exec (.setmode m) s) fun t => Produces s t ∧ t.events = s.events ∧ t.tx = s.tx :=
  .onAfsk (fun st => ⟨(Still.refused s st).produces, rfl, rfl⟩) fun _ => .respond ⟨{ Produces.refl s with }, rfl, rfl⟩

theorem exec_quiet {i : Instr} (hreset : i ≠ .sreset) (hclr : ∀ m, i ≠ .evclr m) (hmode : ∀ m, i ≠ .setmode m) (s : State) :
    Leaves (exec i s) (Quiet s) := by
  have refused (st : Status) : Quiet s (s.withRsp st 0) := { Quiet.refl s with }
  cases hm : isMarkOp i with
  | false => exact fun t ht => (exec_still hm s t ht).toQuiet
  | true =>
    cases i with
    | sreset => exact absurd rfl hreset
    | evclr m => exact absurd rfl (hclr m)
    | setmode m => exact absurd rfl (hmode m)
    | rbput v => exact .onRing refused fun _ => .ite (fun _ => .respond (refused _)) fun _ => .respond { put_quiet v s with }
    | rblast => exact .onRing refused fun _ => .ite (fun _ => .respond (refused _)) fun _ => .respond { Quiet.refl s with }
    | rbget | rbreset => exact .onRing refused fun _ => .respond { Quiet.refl s with }
    | _ => cases hm

theorem exec_produces {i : Instr} (hreset : i ≠ .sreset) (hget : i ≠ .rbget) (hback : i ≠ .rbreset) (hlast : i ≠ .rblast)
    (s : State) : Leaves (exec i s) (Produces s) := by
  cases hm : isMarkOp i with
  | false => exact fun t ht => (exec_still hm s t ht).produces
  | true =>
    cases i with
    | sreset => exact absurd rfl hreset
    | rbget => exact absurd rfl hget
    | rbreset => exact absurd rfl hback
    | rblast => exact absurd rfl hlast
    | evclr m => exact .next { Produces.refl s with }
    | setmode m => exact fun t ht => (exec_setmode_leaves m s t ht).1
    | rbput v =>
      exact .onRing (fun st => (Still.refused s st).produces) fun _ => .ite (fun _ => .respond (Still.refused s _).produces)
        fun _ => .respond { put_produces v s with }
    | _ => cases hm

/-- RBGET, RBRESET and RBLAST move markers and the reader; the memory and the build stay. -/
theorem exec_reader_leaves {i : Instr} (hi : i = .rbget ∨ i = .rbreset ∨ i = .rblast) (s : State) :
    Leaves (exec i s) fun t => t.ring.buf = s.ring.buf ∧ t.build = s.build := by
  obtain rfl | rfl | rfl := hi
  · exact .onRing (fun _ => ⟨rfl, rfl⟩) fun _ => .respond ⟨rfl, rfl⟩
  · exact .onRing (fun _ => ⟨rfl, rfl⟩) fun _ => .respond ⟨rfl, rfl⟩
  · exact .onRing (fun _ => ⟨rfl, rfl⟩) fun _ => .ite (fun _ => .respond ⟨rfl, rfl⟩) fun _ => .respond ⟨rfl, rfl⟩

/-- What any operation leaves of the ring memory under an unread sample, and of the build. -/
structure KeepsUnread (s t : State) : Prop where
  build : t.build = s.build
  cell : 0 < s.unread →
    Memory.byteAt .buf t.ring.buf s.ring.readCursor = Memory.byteAt .buf s.ring.buf s.ring.readCursor

theorem Produces.keepsUnread {s t : State} (h : Produces s t) : KeepsUnread s t := ⟨h.build, h.unread_kept⟩

theorem exec_keepsUnread (i : Instr) (s : State) : Leaves (exec i s) (KeepsUnread s) := by
  by_cases hreader : i = .rbget ∨ i = .rbreset ∨ i = .rblast
  · intro t ht
    obtain ⟨hbuf, hbuild⟩ := exec_reader_leaves hreader s t ht
    exact ⟨hbuild, fun _ => by rw [hbuf]⟩
  · obtain ⟨hget, hback, hlast⟩ : i ≠ .rbget ∧ i ≠ .rbreset ∧ i ≠ .rblast := by simpa only [not_or] using hreader
    by_cases hreset : i = .sreset
    · subst hreset
      exact .next ⟨rfl, fun _ => rfl⟩
    · exact fun t ht => (exec_produces hreset hget hback hlast s t ht).keepsUnread

theorem runWord_leaves {P : State → Prop} {w : CmdWord} {s : State} (hr : ∀ st, P (s.withRsp st 0))
    (h : ∀ i, decode w = .ok i → Leaves (exec i s) P) : Leaves (runWord w s) P := by
  cases hd : decode w with
  | ok i => rw [runWord_of_decode hd]; exact h i hd
  | error d => rw [runWord_of_not_decode hd]; exact .next (hr _)

theorem runWord_keepsUnread (w : CmdWord) (s : State) : Leaves (runWord w s) (KeepsUnread s) :=
  runWord_leaves (fun st => (Still.refused s st).produces.keepsUnread) fun i _ => exec_keepsUnread i s

/-! ### Events -/

theorem Env.nextDet_schedule (e : Env) : e.nextDet.2.agenda = e.agenda ∧ e.nextDet.2.rstN = e.rstN := by
  unfold Env.nextDet
  split <;> exact ⟨rfl, rfl⟩

theorem Env.nextAdc_schedule (e : Env) : e.nextAdc.2.agenda = e.agenda ∧ e.nextAdc.2.rstN = e.rstN := by
  unfold Env.nextAdc
  split <;> exact ⟨rfl, rfl⟩

theorem takeAdc_still (s : State) : Still s (takeAdc s).2 := by
  rw [takeAdc_eq]
  exact { Still.refl s with agenda := s.env.nextAdc_schedule.1, rstN := s.env.nextAdc_schedule.2 }

theorem tickRx_still (s : State) : Still s (tickRx s) := by
  have htake := takeAdc_still s
  unfold tickRx
  generalize takeAdc s = r at htake ⊢
  obtain ⟨e, u⟩ := r
  dsimp only at htake ⊢
  split
  · exact htake.cap _
  · exact htake

/-- A TX tick may change the tone; the rest is still. -/
theorem tickTx_still_but_tone (s : State) : Still s { tickTx s with tx.toneSel := s.tx.toneSel } := by
  unfold tickTx
  split
  · exact { Still.refl s with }
  · split
    · exact { (raiseEvt_still .txDone s) with }
    · split
      · exact { loadNext_still { s with tx.toneSel := s.tx.toneSel.toggle } with toneSel := rfl }
      · exact { loadNext_still s with toneSel := rfl }

/-- The state in which the detector has answered to the sample `v` (R160). -/
def State.detected (s : State) (v : Byte) : State := { s with out.detSample := some v, env := s.env.nextDet.2 }

theorem State.detected_still (s : State) (v : Byte) : Still s (s.detected v) :=
  { Still.refl s with agenda := s.env.nextDet_schedule.1, rstN := s.env.nextDet_schedule.2 }

theorem processSample_of_skipped {e : AdcSample} {s : State} (h : ¬ (e.valid ∧ e.chan = s.build.adcChan)) :
    processSample e s = s := if_neg h

/-- A valid sample of the audio channel (R160). -/
theorem processSample_of_valid {e : AdcSample} {s : State} (h : e.valid ∧ e.chan = s.build.adcChan) :
    let v := condition s.cap.dcOffset s.cap.scaleShift e.raw
    processSample e s =
      if s.env.nextDet.1 then { put v (s.detected v) with cap.capCount := satInc s.cap.capCount }
      else if s.cap.capCount ≠ 0 then boundary { s.detected v with cap.pendingBoundary := true }
      else s.detected v := by
  intro v
  have hput : (put v (s.detected v)).cap.capCount = s.cap.capCount := by
    obtain ⟨buf, wc, len, h⟩ := put_frame v (s.detected v)
    rw [h]
    rfl
  simp only [processSample, if_pos h, takeDet_eq]
  split
  · rw [← hput]
    rfl
  · rfl

theorem processSample_produces (e : AdcSample) (s : State) : Produces s (processSample e s) ∧ Quiet s (processSample e s) := by
  by_cases h : e.valid ∧ e.chan = s.build.adcChan
  · rw [processSample_of_valid h]
    set v := condition s.cap.dcOffset s.cap.scaleShift e.raw
    have hdet := s.detected_still v
    split
    · have hput := put_produces v (s.detected v)
      have hquiet := hdet.toQuiet.trans (put_quiet v (s.detected v))
      exact ⟨{ hput with agenda := hput.agenda.trans hdet.agenda, rstN := hput.rstN.trans hdet.rstN }, { hquiet with }⟩
    · split
      · have hstill := (hdet.cap { (s.detected v).cap with pendingBoundary := true }).trans (boundary_still _)
        exact ⟨hstill.produces, hstill.toQuiet⟩
      · exact ⟨hdet.produces, hdet.toQuiet⟩
  · rw [processSample_of_skipped h]
    exact ⟨.refl s, .refl s⟩

theorem capStep_leaves (s : State) : Produces s (capStep s) ∧ Quiet s (capStep s) := by
  unfold capStep
  split
  · exact ⟨{ Produces.refl s with }, { Quiet.refl s with }⟩
  · extract_lets e c w c₁ f b
    obtain ⟨hp, hq⟩ := processSample_produces e { s with cap.fragIdx := s.cap.fragIdx + 1 }
    have hw : Produces s w ∧ Quiet s w := ⟨hp.of_cap, { hq with }⟩
    clear_value w
    have hf : Still w f := (Still.refl w).cap _
    clear_value f
    have hb : Still w b := hf.trans (boundary_still f)
    clear_value b
    have after {u : State} (hu : Still w u) : Produces s u ∧ Quiet s u := ⟨hw.1.andStill hu, hw.2.trans hu.toQuiet⟩
    split
    · split
      · exact after hf
      · split
        · exact after (hb.cap _)
        · exact after hb
    · exact hw

theorem runCapStep_leaves (s : State) : Produces s (runCapStep s) ∧ Quiet s (runCapStep s) := by
  unfold runCapStep
  split
  · exact capStep_leaves s
  · exact ⟨.refl s, .refl s⟩

theorem squelchEdge_still (v : Bool) (s : State) : Still s (squelchEdge v s) := by
  unfold squelchEdge
  split
  · exact (Still.refl s).avail _
  · exact .refl s

theorem powerDown_still (s : State) : Still s (powerDown s) := by
  have hoff (h : Idle s) : Idle (setOnOff false s) := (setOnOff_still false s).idle h
  cases hb : s.build.backend with
  | afsk =>
    rw [powerDown_afsk hb]
    exact { Still.refl s with evt := fun k hk => by simp [hk], idle := fun h => hoff h }
  | lora =>
    rw [powerDown_lora hb]
    exact { Still.refl s with
      evt := fun k hk => by simp [hk]
      idle := fun h => (hoff h).event (e := .pin .paEnable false) rfl rfl rfl }

theorem runPowerDown_still (s : State) : Still s (runPowerDown s) := by
  unfold runPowerDown
  split
  · exact powerDown_still s
  · exact .refl s

/-- A tick is still but for the tone, which only a TX tick of a running clock moves. -/
theorem runTick_leaves (s : State) :
    Still s { runTick s with tx.toneSel := s.tx.toneSel } ∧
      ((runTick s).tx.toneSel ≠ s.tx.toneSel → s.build.backend = .afsk ∧ s.clk.clkRun = true ∧ s.clk.clkMode = .tx) := by
  unfold runTick
  split
  · rename_i hrun
    cases hmode : s.clk.clkMode with
    | rx => exact ⟨{ tickRx_still s with toneSel := rfl }, fun h => absurd (tickRx_still s).toneSel h⟩
    | tx => exact ⟨tickTx_still_but_tone s, fun _ => ⟨hrun.1, hrun.2, rfl⟩⟩
  · exact ⟨{ Still.refl s with }, fun h => absurd rfl h⟩

end Sys2Proof.Machine
end

section
/-! The rules of the whole block about event flags, clock mode and tone (10_state.md R28, R36, 43_modulator.md R188) and about the ring
memory under an unread sample (R24), from what each agenda entry leaves. -/

namespace Sys2Proof.Machine

theorem Leaves.whileUp {s : State} {k : Result} {P : State → Prop} (hlow : P s) (h : Leaves k P) : Leaves (whileUp s k) P :=
  .ite (fun _ => h) fun _ => .next hlow

/-- Who may clear an event flag, change the clock mode or the tone in the step of the agenda entry `e`, a reset aside. -/
structure Marks (e : Stimulus) (s t : State) : Prop where
  evt : ∀ k, s.events.evt.getLsbD k = true → t.events.evt.getLsbD k = false →
    ∃ w m, e = .command w ∧ decode w = .ok (.evclr m) ∧ m.getLsbD k = true
  clkMode : t.clk.clkMode ≠ s.clk.clkMode → ∃ w m, e = .command w ∧ decode w = .ok (.setmode m)
  toneSel : t.tx.toneSel ≠ s.tx.toneSel → e = .tick ∧ s.build.backend = .afsk ∧ s.clk.clkRun = true ∧ s.clk.clkMode = .tx

section
variable {e : Stimulus} {s t : State}

theorem Marks.of_kept (hevt : ∀ k, s.events.evt.getLsbD k = true → t.events.evt.getLsbD k = true)
    (hmode : t.clk.clkMode = s.clk.clkMode) (htone : t.tx.toneSel = s.tx.toneSel) : Marks e s t where
  evt k hs ht := by simp [hevt k hs] at ht
  clkMode h := absurd hmode h
  toneSel h := absurd htone h

theorem Quiet.marks (h : Quiet s t) : Marks e s t := .of_kept h.evt h.clkMode h.toneSel

end

theorem exec_marks {w : CmdWord} {i : Instr} (hd : decode w = .ok i) (hi : i ≠ .sreset) (s : State) :
    Leaves (exec i s) (Marks (.command w) s) := by
  by_cases hclr : ∃ m, i = .evclr m
  · obtain ⟨m, rfl⟩ := hclr
    refine .next { Quiet.marks (Quiet.refl s) with evt := fun k hs ht => ⟨w, m, rfl, hd, ?_⟩ }
    simpa [hs, BitVec.lt_of_getLsbD hs] using ht
  · by_cases hmode : ∃ m, i = .setmode m
    · obtain ⟨m, rfl⟩ := hmode
      intro t ht
      obtain ⟨-, hevents, htx⟩ := exec_setmode_leaves m s t ht
      exact ⟨fun k hs hl => by simp [hevents, hs] at hl, fun _ => ⟨w, m, rfl, hd⟩, fun h => absurd (by rw [htx]) h⟩
    · exact fun t ht => (exec_quiet hi (fun m h => hclr ⟨m, h⟩) (fun m h => hmode ⟨m, h⟩) s t ht).marks

theorem runTick_marks (s : State) : Marks .tick s (runTick s) := by
  obtain ⟨hstill, htone⟩ := runTick_leaves s
  exact ⟨fun k hs ht => absurd (hstill.evt k hs) (by simp [ht]), fun h => absurd hstill.clkMode h, fun h => ⟨rfl, htone h⟩⟩

theorem runStimulus_marks {e : Stimulus} (he : ¬ e.IsReset) (s : State) : Leaves (runStimulus e s) (Marks e s) := by
  have idle {e : Stimulus} {s : State} : Marks e s s := (Quiet.refl s).marks
  cases e with
  | command w =>
    refine .whileUp idle ?_
    refine runWord_leaves (fun st => (Still.refused s st).toQuiet.marks) fun i hd => exec_marks hd ?_ s
    exact fun hi => he (.inl ⟨w, rfl, by rw [hd, hi]⟩)
  | tick => exact .whileUp idle (.next (runTick_marks s))
  | capStep => exact .whileUp idle (.next (runCapStep_leaves s).2.marks)
  | squelchEdge v =>
    have hedge := squelchEdge_still v { s with env.squelchOpen := v }
    exact .whileUp (Marks.of_kept (fun _ => id) rfl rfl) (.next (.of_kept hedge.evt hedge.clkMode hedge.toneSel))
  | powerDown => exact .whileUp idle (.next (runPowerDown_still s).toQuiet.marks)
  | resetLow => exact absurd (.inr (.inl rfl)) he
  | resetHigh => exact absurd (.inr (.inr (.inl rfl))) he
  | resetDuring w k => exact absurd (.inr (.inr (.inr ⟨w, k, rfl⟩))) he
  | squelchPin v | allocPin v => exact .next (.of_kept (fun _ => id) rfl rfl)

theorem step_marks {s t : State} (h : step s = .next t) :
    StepIsReset s ∨ t = s.begin [] ∨ ∃ e rest, s.env.agenda = e :: rest ∧ Marks e (s.begin rest) t := by
  cases hag : s.env.agenda with
  | nil =>
    rw [step_of_nil hag] at h
    cases h
    exact .inr (.inl rfl)
  | cons e rest =>
    rw [step_of_cons hag] at h
    by_cases he : e.IsReset
    · exact .inl ⟨e, rest, hag, he⟩
    · exact .inr (.inr ⟨e, rest, rfl, runStimulus_marks he _ t h⟩)

/-- Settles O54: of the steps that are no reset only an EVCLR clears a flag. -/
theorem eventFlagsAreSticky : Obligations.EventFlagsAreSticky := by
  unfold Obligations.EventFlagsAreSticky
  intro s t k hstep hs ht
  obtain hreset | rfl | ⟨e, rest, hag, hmarks⟩ := step_marks hstep
  · exact .inl hreset
  · simp [hs] at ht
  · obtain ⟨w, m, rfl, hd, hm⟩ := hmarks.evt k hs ht
    exact .inr ⟨w, rest, m, hag, hd, hm⟩

/-- Settles O55: of the steps that are no reset only a SETMODE changes the mode and only a TX tick the tone. -/
theorem modeAndToneWriters : Obligations.ModeAndToneWriters := by
  unfold Obligations.ModeAndToneWriters
  intro s t hstep
  obtain hreset | rfl | ⟨e, rest, hag, hmarks⟩ := step_marks hstep
  · exact ⟨fun _ => .inl hreset, fun _ => .inl hreset⟩
  · exact ⟨fun h => absurd rfl h, fun h => absurd rfl h⟩
  · refine ⟨fun h => .inr ?_, fun h => .inr ?_⟩
    · obtain ⟨w, m, rfl, hd⟩ := hmarks.clkMode h
      exact ⟨w, rest, m, hag, hd⟩
    · obtain ⟨rfl, hrun⟩ := hmarks.toneSel h
      exact ⟨⟨rest, hag⟩, hrun⟩

/-! ### The ring memory -/

theorem runCut_leaves {w : CmdWord} {k : Nat} {s : State} {P : State → Prop}
    (h : ∀ t, runWord w s = .next t →
      P { resetLow (if k < t.out.trace.length then { s with env := t.env } else t) with
          out := { StepOut.none with trace := t.out.trace.take k } }) : Leaves (runCut w k s) P := by
  obtain ⟨t, -, ht, -⟩ := runWord_answers w s
  rw [runCut_of_runWord ht]
  exact .next (h t ht)

/-- A tone change touches no ring. -/
theorem runTick_keepsUnread (s : State) : KeepsUnread s (runTick s) := { (runTick_leaves s).1.produces.keepsUnread with }

theorem runStimulus_keepsUnread (e : Stimulus) (s : State) : Leaves (runStimulus e s) (KeepsUnread s) := by
  have idle : KeepsUnread s s := (Produces.refl s).keepsUnread
  have reset : KeepsUnread s s.restart := ⟨rfl, fun _ => rfl⟩
  cases e with
  | command w => exact .whileUp idle (runWord_keepsUnread w s)
  | tick => exact .whileUp idle (.next (runTick_keepsUnread s))
  | capStep => exact .whileUp idle (.next (runCapStep_leaves s).1.keepsUnread)
  | squelchEdge v =>
    exact .whileUp { idle with } (.next { (squelchEdge_still v { s with env.squelchOpen := v }).produces.keepsUnread with })
  | powerDown => exact .whileUp idle (.next (runPowerDown_still s).produces.keepsUnread)
  | resetLow => exact .next { reset with }
  | resetHigh =>
    refine .next ?_
    unfold resetHigh
    split
    · exact idle
    · exact { reset with }
  | resetDuring w k =>
    refine .whileUp idle (runCut_leaves fun t ht => ?_)
    split
    · exact { reset with }
    · exact { runWord_keepsUnread w s t ht with }
  | squelchPin v | allocPin v => exact .next { idle with }

/-- Settles O22: the producer stores nowhere else than at the write cursor, and not there while it is the oldest unread cell. -/
theorem unreadSampleKept : Obligations.UnreadSampleKept := by
  unfold Obligations.UnreadSampleKept
  intro s t hstep hun
  cases hag : s.env.agenda with
  | nil =>
    rw [step_of_nil hag] at hstep
    cases hstep
    rfl
  | cons e rest =>
    rw [step_of_cons hag] at hstep
    exact (runStimulus_keepsUnread e (s.begin rest) t hstep).cell hun

end Sys2Proof.Machine
end

section
/-! The invariant (10_state.md R22, R24, R27, R29 to R36, R66, 43_modulator.md R189 iii): it holds after reset and every operation and
event keeps it. Each engine's part first, then the operations, then the steps. -/

namespace Sys2Proof.Machine

/-! ### What leaves the invariant alone -/

section
variable {s t : State}

theorem Inv.rsp (h : Inv s) (st : Status) (v : Word) : Inv (s.withRsp st v) := { h with }

theorem Inv.refused (h : Inv s) (st : Status) : Inv (s.withRsp st 0) := h.rsp st 0

theorem reserved_or {a b : Half} (ha : a &&& 0xF800 = 0) (hb : b &&& 0xF800 = 0) : (a ||| b) &&& 0xF800 = 0 := by
  rw [BitVec.and_or_distrib_right, ha, hb]
  rfl

theorem reserved_and {a b : Half} (ha : a &&& 0xF800 = 0) : (a &&& b) &&& 0xF800 = 0 := by
  rw [BitVec.and_assoc, BitVec.and_comm b, ← BitVec.and_assoc, ha]
  exact BitVec.zero_and

theorem EvtFlag.mask_reserved (f : EvtFlag) : f.mask &&& 0xF800 = 0 := by cases f <;> rfl

theorem Inv.raiseEvt (h : Inv s) (f : EvtFlag) : Inv (raiseEvt f s) := { h with evt := reserved_or h.evt f.mask_reserved }

/-! ### Bus work -/

theorem CommandTrace.attempts_le {c : ChipTable} {T left k w : Nat} {opc : Byte} {pay : List Byte} {tr : List BusEvent}
    {st : LoraOutcome} (h : CommandTrace c T opc pay left tr st k w) : k ≤ left := by
  induction h with
  | success _ => omega
  | abandoned _ _ => exact Nat.le_refl 1
  | again _ _ _ ih => omega

theorem BusTrace.attempts_le {b : Build} {T : Nat} {items : List BusItem} {tr : List BusEvent} {y : Tally}
    (h : BusTrace b T items tr y) {st : LoraOutcome} {k : Nat} (hl : y.last = some (st, k)) : k ≤ b.maxAttempts := by
  induction h with
  | nil => cases hl
  | write hc _ ih =>
    obtain hy | ⟨-, hy⟩ := Option.or_eq_some_iff.1 hl
    · exact ih hy
    · cases hy
      exact hc.attempts_le
  | read _ _ _ _ ih | wait _ _ ih =>
    obtain hy | ⟨-, hy⟩ := Option.or_eq_some_iff.1 hl
    · exact ih hy
    · cases hy
  | pin _ ih => exact ih hl

theorem LoraOutcome.code_le (st : LoraOutcome) : st.code.toNat ≤ 4 := by cases st <;> decide

theorem LoraInv.tally {b : Build} {l : Lora} {y : Tally} (h : LoraInv b l) (hy : ∀ st k, y.last = some (st, k) → k ≤ b.maxAttempts) :
    LoraInv b (y.lora l) := by
  unfold Tally.lora
  split
  · exact h
  · rename_i st k hlast
    refine { h with attempts_le := ?_, status_le := st.code_le }
    exact Nat.le_trans (by rw [BitVec.toNat_ofNat]; exact Nat.mod_le _ _) (hy st k hlast)

theorem DoesBus.inv {items : List BusItem} (hd : DoesBus s items t) (h : Inv s) : Inv t := by
  obtain ⟨tr, y, e, hb, -, rfl⟩ := hd
  have hwarn : (if y.warns = 0 then 0 else 0x0040 : Half) &&& 0xF800 = 0 := by split <;> rfl
  have hfail : (if y.fails = 0 then 0 else 0x0080 : Half) &&& 0xF800 = 0 := by split <;> rfl
  exact { h with lora := h.lora.tally fun _ _ => hb.attempts_le, evt := reserved_or (reserved_or h.evt hwarn) hfail }

theorem readTransaction_inv (h : Inv s) (opc : Byte) (pre : List Byte) (n : Nat) :
    (readTransaction opc pre n s).1.length = n ∧ Inv (readTransaction opc pre n s).2 := by
  obtain ⟨hl, hd⟩ := doesBus_read opc pre n s h.lora.deselected
  exact ⟨hl, hd.inv h⟩

/-- The data of a read fit the buffer, whose capacity is at least 255 (R8). -/
theorem storeLpb_inv (h : Inv s) {data : List Byte} {n : Byte} (hn : data.length = n.toNat) : Inv (storeLpb data s) := by
  have hcap : data.length ≤ s.build.lpbCap := by
    have := h.build.lpbCap_ge
    omega
  exact { h with lora := { h.lora with
    lpbLen_le := hcap
    lpb_wf := Memory.writeFrom_wf _ _ _ h.lora.lpb_wf
    lpb_within := Memory.writeFrom_within _ h.lora.lpb_within (by rwa [Nat.zero_add]) } }

end

/-! ### Codec -/

section
variable {b : Build} {c : Codec} {s : State}

/-- A record that every writer of one may leave (R31). -/
def Ax25Address.Valid (A : Ax25Address) : Prop := A.flags &&& 0x7E = 0 ∧ A.call.Is7Bit

theorem mem_addr_iff {addr : Vector Ax25Address 9} {A : Ax25Address} : A ∈ addr.toList ↔ ∃ i : Nat, addr[i]? = some A := by
  rw [List.mem_iff_getElem?]
  simp

theorem CodecInv.valid (h : CodecInv b c) {i : Nat} {A : Ax25Address} (hA : c.addr[i]? = some A) : A.Valid :=
  ⟨h.flags A (mem_addr_iff.2 ⟨i, hA⟩), h.chars A (mem_addr_iff.2 ⟨i, hA⟩)⟩

/-- New records, each of them valid. -/
theorem CodecInv.addr (h : CodecInv b c) {addr : Vector Ax25Address 9} (hv : ∀ (i : Nat) A, addr[i]? = some A → A.Valid) :
    CodecInv b { c with addr := addr } where
  __ := h
  flags A hA := by
    obtain ⟨i, hi⟩ := mem_addr_iff.1 hA
    exact (hv i A hi).1
  chars A hA := by
    obtain ⟨i, hi⟩ := mem_addr_iff.1 hA
    exact (hv i A hi).2

theorem CodecInv.setAddr (h : CodecInv b c) {i : Nat} {A : Ax25Address} (hA : A.Valid) : CodecInv b (c.setAddr i A) :=
  h.addr fun j B hB => by
    rw [Vector.getElem?_setIfInBounds] at hB
    split at hB
    · split at hB
      · cases hB
        exact hA
      · cases hB
    · exact h.valid hB

theorem parsed_valid (t : List Byte) : Ax25Address.Valid ⟨(parseAddr t).1, (parseAddr t).2, 0⟩ := 
  ⟨BitVec.zero_and, parseAddr_is7Bit t⟩

theorem takenAddress_valid (s : State) (i : Nat) : (takenAddress s i).Valid := by
  have hflags : ∀ f : Byte, f &&& 0x81 &&& 0x7E = 0 := by decide
  have hchar : ∀ x : Byte, x >>> 1 &&& 0x80 = 0 := by decide
  refine ⟨hflags _, fun x hx => ?_⟩
  simp only [takenAddress, Callsign.toList, List.mem_cons, List.not_mem_nil, or_false] at hx
  obtain rfl | rfl | rfl | rfl | rfl | rfl := hx <;> exact hchar _

theorem Inv.withCodec (h : Inv s) {c : Codec} (hc : CodecInv s.build c) : Inv { s with codec := c } := { h with codec := hc }

theorem storeString_inv (h : Inv s) {out : List Byte} (hn : out.length ≤ 69) : Inv (storeString out s) := by
  have hcap : out.length ≤ s.build.strCap := by
    have := h.build.strCap_ge
    omega
  exact h.withCodec { h.codec with
    strRd_le := Nat.zero_le _
    strLen_le := hcap
    strb_wf := Memory.writeFrom_wf _ _ _ h.codec.strb_wf
    strb_within := Memory.writeFrom_within _ h.codec.strb_within (by rwa [Nat.zero_add]) }

theorem digiText_length_le (short : Bool) (s : State) : (joinCommas ((digiPath s).map (formatDigi short))).length ≤ 69 := by
  have hjoin := joinCommas_length_le 9 ((digiPath s).map (formatDigi short)) fun x hx => by
    obtain ⟨A, -, rfl⟩ := List.mem_map.1 hx
    exact formatDigi_length_le short A
  have hpath : (digiPath s).length ≤ 7 := by
    simp only [digiPath, digiCount, List.length_take]
    omega
  rw [List.length_map] at hjoin
  omega

theorem execStrput_inv (v : Byte) (h : Inv s) : Leaves (execStrput v s) Inv :=
  .ite (fun _ => .respond (h.refused _)) fun hfull => by
    have hroom : s.codec.strLen < s.build.strCap := Nat.lt_of_le_of_ne h.codec.strLen_le hfull
    exact .respond { h with codec := { h.codec with
      strRd_le := Nat.le_succ_of_le h.codec.strRd_le
      strLen_le := hroom
      strb_wf := Memory.write_wf _ _ _ h.codec.strb_wf
      strb_within := Memory.write_within _ h.codec.strb_within hroom } }

theorem execAxbput_inv (v : Byte) (h : Inv s) : Leaves (execAxbput v s) Inv := by
  by_cases hfull : s.codec.axbLen = s.build.axbCap
  · rw [execAxbput, axbEmit, if_pos hfull]
    exact .respond (h.refused _)
  · rw [execAxbput, axbEmit, if_neg hfull]
    have hroom : s.codec.axbLen < s.build.axbCap := Nat.lt_of_le_of_ne h.codec.axbLen_le hfull
    exact .respond { h with codec := { h.codec with
      axbRd_le := Nat.le_succ_of_le h.codec.axbRd_le
      axbLen_le := hroom
      axb_wf := Memory.write_wf _ _ _ h.codec.axb_wf
      axb_within := Memory.write_within _ h.codec.axb_within hroom } }

theorem execAxenc_inv (h : Inv s) : Leaves (execAxenc s) Inv := by
  have hcap := h.codec.axbLen_le
  have hlen : s.codec.axbLen + min (headerBytes s).length (s.build.axbCap - s.codec.axbLen) ≤ s.build.axbCap := by omega
  have hbytes : s.codec.axbLen + ((headerBytes s).take (min (headerBytes s).length (s.build.axbCap - s.codec.axbLen))).length ≤
      s.build.axbCap := by
    rw [List.length_take]
    omega
  rw [execAxenc, axbEmitAll_spec (headerBytes s) s hcap]
  exact .respond { h with codec := { h.codec with
    axbRd_le := Nat.le_add_right_of_le h.codec.axbRd_le
    axbLen_le := hlen
    axb_wf := Memory.writeFrom_wf _ _ _ h.codec.axb_wf
    axb_within := Memory.writeFrom_within _ h.codec.axb_within hbytes } }

theorem execAxdec_inv (h : Inv s) : Leaves (exec .axdec s) Inv := by
  obtain ⟨count, addr, hd, he⟩ := execAxdec_spec h.codec.axbRd_le
  rw [he]
  refine .next { h with codec := { h.codec.addr (addr := addr) fun i A hA => ?_ with axbRd_le := Nat.min_le_left _ _ } }
  by_cases hi : i < 2 + count
  · rw [hd.taken i hi] at hA
    cases hA
    exact takenAddress_valid s i
  · rw [hd.kept i (by omega)] at hA
    exact h.codec.valid hA

theorem execS2d_inv (h : Inv s) : Leaves (execS2d s) Inv := by
  have hitems : (pathItems (strBytes s)).length ≤ 7 := by
    unfold pathItems
    split
    · simp
    · exact List.length_take_le _ _
  obtain ⟨addr, hkept, hparsed, he⟩ := storePath_spec (pathItems (strBytes s)) 2 s (by omega)
  rw [execS2d, he]
  refine .respond { h with codec := { h.codec.addr (addr := addr) fun i A hA => ?_ with } }
  by_cases hi : i < 2 ∨ 2 + (pathItems (strBytes s)).length ≤ i
  · rw [hkept i hi] at hA
    exact h.codec.valid hA
  · obtain ⟨k, rfl⟩ : ∃ k, i = 2 + k := ⟨i - 2, by omega⟩
    rw [hparsed k _ (List.getElem?_eq_getElem (by omega))] at hA
    cases hA
    exact parsed_valid _

/-- An operation on one address record: refused above 8, and else with a record the invariant admits. -/
theorem addrAt_inv (h : Inv s) {i : Nat} {k : Ax25Address → Result} (hk : ∀ A : Ax25Address, A.Valid → Leaves (k A) Inv) :
    Leaves (match s.codec.addrAt? i with | none => s.refuse .range | some A => k A) Inv := by
  cases hA : s.codec.addrAt? i with
  | none => exact .respond (h.refused _)
  | some A => exact hk A (h.codec.valid hA)

theorem exec_codecOp_inv {i : Instr} (hi : isCodecOp i = true) (h : Inv s) : Leaves (exec i s) Inv := by
  have hflags : ∀ f : Byte, f &&& 0x81 &&& 0x7E = 0 := by decide
  cases i with
  | strclr =>
    exact .respond { h with codec := { h.codec with strRd_le := Nat.le_refl 0, strLen_le := Nat.zero_le _ } }
  | axbclr =>
    exact .respond { h with codec := { h.codec with axbRd_le := Nat.le_refl 0, axbLen_le := Nat.zero_le _ } }
  | strput v => exact execStrput_inv v h
  | axbput v => exact execAxbput_inv v h
  | strget =>
    exact .ite (fun _ => .respond (h.refused _)) fun hrd =>
      .respond { h with codec := { h.codec with strRd_le := Nat.lt_of_not_le hrd } }
  | axbget =>
    exact .ite (fun _ => .respond (h.refused _)) fun hrd =>
      .respond { h with codec := { h.codec with axbRd_le := Nat.lt_of_not_le hrd } }
  | s2a idx =>
    exact .ite (fun _ => .respond (h.refused _)) fun _ => .respond { h with codec := h.codec.setAddr (parsed_valid _) }
  | a2s idx =>
    exact addrAt_inv h fun A _ => .respond ((storeString_inv h (Nat.le_trans (formatAddr_length_le A) (by decide))).rsp _ _)
  | axssid idx v => exact addrAt_inv h fun A hA => .respond { h with codec := h.codec.setAddr ⟨hA.1, hA.2⟩ }
  | axflg idx f => exact addrAt_inv h fun A hA => .respond { h with codec := h.codec.setAddr ⟨hflags f, hA.2⟩ }
  | axrd idx => exact addrAt_inv h fun A _ => .respond (h.rsp _ _)
  | axndigi | axctl => exact .respond { h with codec := { h.codec with } }
  | axenc => exact execAxenc_inv h
  | axdec => exact execAxdec_inv h
  | s2d => exact execS2d_inv h
  | d2s short => exact .respond ((storeString_inv h (digiText_length_le short s)).rsp _ _)
  | _ => cases hi

end

end Sys2Proof.Machine
end

section
/-! The invariant kept by the ring, the capture engine, the modulator, the availability contract and the command channel
(10_state.md R22 to R37), by every operation and by every step; and its truth after reset (R66). -/

namespace Sys2Proof.Machine

variable {s t : State}

/-! ### Ring and capture -/

theorem Inv.withRing (h : Inv s) {r : Ring} (hr : RingInv s.build r) : Inv { s with ring := r } := { h with ring := hr }

theorem put_inv (h : Inv s) (v : Byte) : Inv (put v s) := by
  have hring := put_ringInv v h.ring
  obtain ⟨buf, wc, len, he⟩ := put_frame v s
  rw [he] at hring ⊢
  exact h.withRing hring

theorem nextFrame_inv (h : Inv s) : Inv (nextFrame s) := h.withRing (nextFrame_ringInv h.ring)

/-- The engine with an empty fragment and nothing counted, in whatever state. -/
theorem CaptureInv.emptied {b : Build} {c : Capture} (h : CaptureInv b c) (hb : b.wf) (st : CapState) (force : Bool) (len : Word) :
    CaptureInv b { c with
      capState := st, capForce := force, capCount := 0, capLen := len, pendingBoundary := false, fragFill := 0, fragIdx := 0 } :=
  { h with
    fill_le := Nat.zero_le _
    idx_lt := hb.fragLen_pos
    idx_full := .inl rfl
    pending := rfl
    idle_empty := fun _ => ⟨rfl, rfl, rfl⟩ }

/-- Between two entries of a full fragment: the index may stand past the last entry until the loop test is made (R157). -/
structure Draining (s : State) : Prop where
  inv : Inv { s with cap.fragIdx := 0 }
  running : s.cap.capState = .run
  full : s.cap.fragFill = s.build.fragLen

/-- After an entry the fragment is still being drained, or the frame was delivered. -/
theorem processSample_draining (e : AdcSample) (h : Draining s) :
    (Draining (processSample e s) ∧ (processSample e s).cap.fragIdx = s.cap.fragIdx) ∨ Inv (processSample e s) := by
  by_cases hv : e.valid ∧ e.chan = s.build.adcChan
  · rw [processSample_of_valid hv]
    set v := condition s.cap.dcOffset s.cap.scaleShift e.raw
    split
    · have hring := put_ringInv v (s := s.detected v) h.inv.ring
      obtain ⟨buf, wc, len, he⟩ := put_frame v (s.detected v)
      rw [he] at hring ⊢
      exact .inl ⟨{ h with inv := { h.inv with
        ring := hring
        cap := { h.inv.cap with idle_empty := fun hc => absurd h.running hc } } }, rfl⟩
    · split
      · rename_i hcount
        obtain ⟨h₀, -⟩ | ⟨-, -, he⟩ | ⟨-, -, he⟩ := boundary_cases { s.detected v with cap.pendingBoundary := true }
        · exact absurd h₀ hcount
        · rw [he]
          exact .inl ⟨{ h with inv := { h.inv with
            ring := nextFrame_ringInv (s := s.detected v) h.inv.ring
            cap := { h.inv.cap with pending := rfl, idle_empty := fun hc => absurd h.running hc }
            evt := reserved_or h.inv.evt rfl } }, rfl⟩
        · rw [he]
          exact .inr { h.inv with cap := h.inv.cap.emptied h.inv.build _ _ _, evt := reserved_or h.inv.evt rfl }
      · exact .inl ⟨{ h with inv := { h.inv with } }, rfl⟩
  · rw [processSample_of_skipped hv]
    exact .inl ⟨h, rfl⟩

/-- The loop test after the last entry (R157, R161). -/
theorem Draining.restarted (h : Draining s) : Inv { s with cap.fragFill := 0, cap.fragIdx := 0 } :=
  { h.inv with cap := { h.inv.cap with
    fill_le := Nat.zero_le _
    idx_full := .inl rfl
    idle_empty := fun hc => absurd h.running hc } }

/-- A step of the loop test with the squelch closed: no candidate left, so the worker may wait. -/
theorem boundary_wait_inv (h : Inv s) (hrun : s.cap.capState = .run) (hfill : s.cap.fragFill = 0) (hidx : s.cap.fragIdx = 0) :
    Inv (if (boundary s).cap.capState = .run then { boundary s with cap.capState := .wait } else boundary s) := by
  obtain ⟨h₀, he⟩ | ⟨-, -, he⟩ | ⟨-, -, he⟩ := boundary_cases s
  · rw [he, if_pos hrun]
    exact { h with cap := { h.cap with idle_empty := fun _ => ⟨h₀, hfill, hidx⟩ } }
  · rw [he, if_pos hrun]
    exact { h with
      ring := nextFrame_ringInv (s := s) h.ring
      cap := { h.cap with pending := rfl, idle_empty := fun _ => ⟨rfl, hfill, hidx⟩ }
      evt := reserved_or h.evt rfl }
  · rw [he, if_neg nofun]
    exact { h with cap := h.cap.emptied h.build _ _ _, evt := reserved_or h.evt rfl }

theorem capStepEnabled_iff (s : State) :
    capStepEnabled s = true ↔ s.build.backend = .afsk ∧
      ((s.cap.capState = .wait ∧ (s.env.squelchOpen = true ∨ s.cap.capForce = true)) ∨
        (s.cap.capState = .run ∧ s.cap.fragFill = s.build.fragLen)) := by
  unfold capStepEnabled captureOpen
  cases s.cap.capState <;> simp

theorem capStep_inv (h : Inv s) (hen : capStepEnabled s = true) : Inv (capStep s) := by
  unfold capStep
  split
  · rename_i hwait
    obtain ⟨hcount, -⟩ := h.cap.idle_empty (by rw [hwait]; nofun)
    exact { h with cap := { h.cap with
      fill_le := Nat.zero_le _, idx_lt := h.build.fragLen_pos, idx_full := .inl rfl, idle_empty := fun _ => ⟨hcount, rfl, rfl⟩ } }
  · rename_i hwait
    obtain ⟨-, ⟨hw, -⟩ | ⟨hrun, hfull⟩⟩ := (capStepEnabled_iff s).1 hen
    · exact absurd hw hwait
    extract_lets e c w c₁ f b
    have hd : Draining { s with cap.fragIdx := s.cap.fragIdx + 1 } :=
      { inv := { h with cap := { h.cap with
          idx_lt := h.build.fragLen_pos, idx_full := .inl rfl, idle_empty := fun hc => absurd hrun hc } }
        running := hrun
        full := hfull }
    have hb : w.build = s.build := (processSample_produces e { s with cap.fragIdx := s.cap.fragIdx + 1 }).1.build
    have hw : (Draining w ∧ w.cap.fragIdx = s.cap.fragIdx + 1) ∨ Inv w := processSample_draining e hd
    clear_value w
    obtain ⟨hw, hidx⟩ | hw := hw
    · split
      · split
        · exact hw.restarted
        · exact boundary_wait_inv hw.restarted hw.running rfl rfl
      · rename_i hlast
        have hle : w.cap.fragIdx ≤ w.build.fragLen := by
          rw [hidx, hb]
          exact h.cap.idx_lt
        have hlt : w.cap.fragIdx < w.build.fragLen := Nat.lt_of_le_of_ne hle fun he => hlast ⟨hw.running, he⟩
        exact { hw.inv with cap := { hw.inv.cap with
          idx_lt := hlt, idx_full := .inr hw.full, idle_empty := fun hc => absurd hw.running hc } }
    · rw [if_neg fun hlast => Nat.ne_of_lt hw.cap.idx_lt hlast.2]
      exact hw

theorem runCapStep_inv (h : Inv s) : Inv (runCapStep s) := by
  unfold runCapStep
  split
  · exact capStep_inv h ‹_›
  · exact h

theorem tickRx_inv (h : Inv s) : Inv (tickRx s) := by
  simp only [tickRx, takeAdc_eq]
  split
  · rename_i hroom
    obtain ⟨hrun, hlt⟩ := hroom
    have hidx : s.cap.fragIdx = 0 := h.cap.idx_full.resolve_right (Nat.ne_of_lt hlt)
    exact { h with cap := { h.cap with
      fill_le := hlt
      idx_full := .inl hidx
      idle_empty := fun hc => absurd hrun hc
      frag_wf := Memory.write_wf _ _ _ h.cap.frag_wf
      frag_within := Memory.write_within _ h.cap.frag_within hlt } }
  · exact { h with }

/-! ### Modulator -/

theorem loadNext_inv (h : Inv s) (hkeyed : s.tx.txState = .keyed) : Inv (loadNext s) := by
  have hidle : s.tx.txState ≠ .idle := by rw [hkeyed]; nofun
  have hbits := h.tx.bits_le
  have hqueue := h.tx.queue_le
  obtain ⟨-, he⟩ | ⟨-, b, q, hq, he⟩ | ⟨h₀, -, he⟩ := loadNext_cases s
  · rw [he]
    exact { h with tx := { h.tx with bits_le := Nat.sub_le_of_le_add (by omega), idle := fun hi => absurd hi hidle, exhausted := nofun } }
  · rw [he]
    rw [hq] at hqueue
    exact { h with tx := { h.tx with
      bits_le := (by decide : 7 ≤ 8)
      queue_le := Nat.le_of_succ_le hqueue
      idle := fun hi => absurd hi hidle
      exhausted := nofun } }
  · rw [he]
    exact { h with tx := { h.tx with idle := fun _ => rfl, exhausted := fun _ => h₀ } }

theorem tickTx_inv (h : Inv s) : Inv (tickTx s) := by
  unfold tickTx
  split
  · exact h
  · rename_i hidle
    have hkeyed : s.tx.txState = .keyed := by
      cases hx : s.tx.txState
      · exact absurd hx hidle
      · rfl
    split
    · rename_i hvalid
      exact { h with
        tx := { h.tx with tone := ⟨nofun, nofun⟩, idle := fun _ => hvalid }
        avail := { h.avail with }
        ptt := fun _ => rfl
        evt := reserved_or h.evt rfl }
    · split
      · exact loadNext_inv { h with tx := { h.tx with } } hkeyed
      · exact loadNext_inv h hkeyed

theorem runTick_inv (h : Inv s) : Inv (runTick s) := by
  unfold runTick
  split
  · cases s.clk.clkMode with
    | rx => exact tickRx_inv h
    | tx => exact tickTx_inv h
  · exact h

theorem execTxstart_inv (h : Inv s) : Leaves (execTxstart s) Inv := by
  refine .onAfsk h.refused fun _ => .ite (fun _ => .respond (h.refused _)) fun _ => .ite (fun _ => .respond (h.refused _))
    fun _ => .respond (.rsp (loadNext_inv ?_ rfl) _ _)
  exact { h with tx := { h.tx with tone := ⟨fun _ => rfl, fun _ => rfl⟩, idle := nofun }, avail := { h.avail with }, ptt := fun _ => rfl }

/-! ### Availability -/

theorem satInc_ne_zero {x : Half} (h : x ≠ 0) : satInc x ≠ 0 := by
  unfold satInc
  split
  · exact h
  · rename_i hx
    refine fun h₀ => hx (BitVec.eq_of_toNat_eq ?_)
    have hn : (x.toNat + 1) % 2 ^ 16 = 0 := by simpa using congrArg BitVec.toNat h₀
    rw [BitVec.toNat_allOnes]
    omega

theorem exec_require_inv (h : Inv s) : Leaves (exec .require s) Inv := by
  by_cases hcount : s.avail.useCount = 0
  · cases hon : s.avail.onOff with
    | true =>
      rw [exec_require_of_on hcount hon]
      exact .next { h with avail := { h.avail with
        used_on := fun _ => hon, on_used := fun _ => .inl (by decide : (1 : Half) ≠ 0), pending := nofun } }
    | false =>
      have up {a : Avail} (ready : Bool) : AvailInv { a with
          useCount := 1, pdPending := false, onOff := true, available := true, channelReady := ready } :=
        { used_on := fun _ => rfl, on_used := fun _ => .inl (by decide : (1 : Half) ≠ 0), pending := nofun, available := rfl
          channelReady := fun _ => rfl }
      cases hb : s.build.backend with
      | afsk =>
        rw [(requireResult s).2.2 hcount hon hb]
        exact .next { h with avail := up _, evt := reserved_or h.evt rfl }
      | lora =>
        obtain ⟨_, _, m, -, hm, he⟩ := requireBringsUpLora s hb hcount hon h.lora.deselected h.build.maxAttempts_pos
        rw [he]
        have hi := hm.inv h
        have hlora : m.build.backend = .lora := by rwa [hm.build]
        exact .next { hi with
          avail := up _
          lora := { hi.lora with noReset := rfl, pa := ⟨nofun, nofun⟩ }
          ptt := fun hafsk => by simp [hlora] at hafsk
          evt := reserved_or hi.evt rfl }
  · rw [exec_require_of_used hcount]
    have hon := h.avail.used_on hcount
    exact .next { h with avail := { h.avail with
      used_on := fun _ => hon
      on_used := fun _ => .inl (satInc_ne_zero hcount)
      pending := fun hp => absurd (h.avail.pending hp).1 hcount } }

theorem exec_release_inv (h : Inv s) : Leaves (exec .release s) Inv := by
  by_cases hcount : s.avail.useCount = 0
  · rw [exec_release_of_unused hcount]
    exact .next (h.refused _)
  · have hon := h.avail.used_on hcount
    rw [exec_release_to hcount rfl]
    refine .next (.rsp ?_ _ _)
    split
    · rename_i hlast
      exact { h with avail := { h.avail with
        used_on := fun _ => hon, on_used := fun _ => .inr rfl, pending := fun _ => ⟨hlast, hon⟩ } }
    · rename_i hleft
      exact { h with avail := { h.avail with
        used_on := fun _ => hon
        on_used := fun _ => .inl hleft
        pending := fun hp => absurd (h.avail.pending hp).1 hcount } }

theorem runPowerDown_inv (h : Inv s) : Inv (runPowerDown s) := by
  unfold runPowerDown
  split
  · rename_i hen
    obtain ⟨-, hcount, -⟩ := (powerDownEnabled_iff s).1 hen
    have off : AvailInv { s.avail with onOff := false, available := false, channelReady := false, pdPending := false } :=
      { used_on := fun hused => absurd hcount hused, on_used := nofun, pending := nofun, available := rfl, channelReady := nofun }
    cases hb : s.build.backend with
    | afsk =>
      rw [powerDown_afsk hb]
      exact { h with avail := off, evt := reserved_or h.evt rfl }
    | lora =>
      rw [powerDown_lora hb]
      exact { h with avail := off, lora := { h.lora with pa := ⟨nofun, nofun⟩ }, evt := reserved_or h.evt rfl }
  · exact h

theorem squelchEdge_inv (v : Bool) (h : Inv s) : Inv (squelchEdge v s) := by
  unfold squelchEdge
  split
  · rename_i hav
    exact { h with avail := { h.avail with channelReady := fun _ => hav.2 } }
  · exact h

/-! ### Reset -/

/-- The memories in canonical form and inside their spaces (R71). -/
structure MemoryInv (s : State) : Prop where
  buf  : Memory.wf s.ring.buf = true ∧ Memory.Within s.ring.buf s.build.ringCap
  frag : Memory.wf s.cap.frag = true ∧ Memory.Within s.cap.frag s.build.fragLen
  axb  : Memory.wf s.codec.axb = true ∧ Memory.Within s.codec.axb s.build.axbCap
  strb : Memory.wf s.codec.strb = true ∧ Memory.Within s.codec.strb s.build.strCap
  lpb  : Memory.wf s.lora.lpb = true ∧ Memory.Within s.lora.lpb s.build.lpbCap

theorem Inv.memories (h : Inv s) : MemoryInv s where
  buf := ⟨h.ring.buf_wf, h.ring.buf_within⟩
  frag := ⟨h.cap.frag_wf, h.cap.frag_within⟩
  axb := ⟨h.codec.axb_wf, h.codec.axb_within⟩
  strb := ⟨h.codec.strb_wf, h.codec.strb_within⟩
  lpb := ⟨h.lora.lpb_wf, h.lora.lpb_within⟩

theorem blank_valid : Ax25Address.blank.Valid := by
  refine ⟨rfl, ?_⟩
  unfold Callsign.Is7Bit
  decide

/-- A reset meets the invariant whatever the registers were (R66, R361). -/
theorem restart_inv (hb : s.build.wf) (hm : MemoryInv s) : Inv s.restart where
  build := hb
  ring :=
    { readCursor_lt := Nat.lt_of_lt_of_le Nat.two_pos hb.ringCap_ge
      writeCursor_eq := (Nat.zero_mod _).symm
      committed_lt := Nat.lt_of_lt_of_le Nat.two_pos hb.ringCap_ge
      provisional_lt := Nat.lt_of_lt_of_le Nat.two_pos hb.ringCap_ge
      committed_le := Nat.zero_le _
      provisional_le := Nat.zero_le _
      buf_wf := hm.buf.1
      buf_within := hm.buf.2
      enabled_afsk := fun he => by
        obtain ⟨hk, -⟩ := Bool.and_eq_true_iff.1 he
        exact eq_of_beq hk }
  cap :=
    { fill_le := Nat.zero_le _
      idx_lt := hb.fragLen_pos
      idx_full := .inl rfl
      pending := rfl
      idle_empty := fun _ => ⟨rfl, rfl, rfl⟩
      frag_wf := hm.frag.1
      frag_within := hm.frag.2 }
  tx :=
    { bits_le := Nat.zero_le 8
      queue_le := Nat.zero_le _
      tone := ⟨nofun, nofun⟩
      idle := fun _ => rfl
      exhausted := fun _ => rfl }
  codec :=
    { axbRd_le := Nat.le_refl 0
      axbLen_le := Nat.zero_le _
      strRd_le := Nat.le_refl 0
      strLen_le := Nat.zero_le _
      axb_wf := hm.axb.1
      axb_within := hm.axb.2
      strb_wf := hm.strb.1
      strb_within := hm.strb.2
      flags := fun A hA => by
        obtain rfl : A = Ax25Address.blank := by simpa [State.restart, State.resetFor] using hA
        exact blank_valid.1
      chars := fun A hA => by
        obtain rfl : A = Ax25Address.blank := by simpa [State.restart, State.resetFor] using hA
        exact blank_valid.2 }
  lora :=
    { deselected := rfl
      noReset := rfl
      pa := ⟨nofun, nofun⟩
      lpbLen_le := Nat.zero_le _
      lpb_wf := hm.lpb.1
      lpb_within := hm.lpb.2
      attempts_le := Nat.zero_le _
      status_le := Nat.zero_le 4 }
  avail := { used_on := fun h => absurd rfl h, on_used := nofun, pending := nofun, available := rfl, channelReady := nofun }
  ptt _ := rfl
  evt := by
    change (if _ then (0x0100 : Half) else 0) &&& 0xF800 = 0
    split <;> rfl

theorem configBuild_wf : Config.build.wf := by
  have hfrag : Config.openFragLen % 65535 < 65535 := Nat.mod_lt _ (by decide)
  exact {
    ringCap_ge := by decide
    ringCap_le := by decide
    minFrame_pos := by decide
    minFrame_lt := by decide
    fragLen_pos := Nat.succ_pos _
    fragLen_lt := Nat.lt_succ_of_le hfrag
    txqDepth_pos := by decide
    txqDepth_lt := by decide
    axbCap_ge := by decide
    axbCap_lt := by decide
    strCap_ge := by decide
    strCap_lt := by decide
    lpbCap_ge := by decide
    lpbCap_lt := by decide
    busyTimeout_pos := by decide
    pollAttempts_pos := by decide
    maxAttempts_pos := by decide
    maxAttempts_lt := by decide
    xtalHz_pos := by decide }

/-- Settles O59: the reset state is a reset of itself, with no memory cell written. -/
theorem invAtReset : Obligations.InvAtReset := by
  unfold Obligations.InvAtReset
  have hmem : MemoryInv State.reset :=
    ⟨⟨rfl, Memory.within_nil _⟩, ⟨rfl, Memory.within_nil _⟩, ⟨rfl, Memory.within_nil _⟩, ⟨rfl, Memory.within_nil _⟩,
      ⟨rfl, Memory.within_nil _⟩⟩
  exact restart_inv (s := State.reset) configBuild_wf hmem

end Sys2Proof.Machine
end

section
/-! Every step keeps the invariant (10_state.md R22 to R36, 45_lora_primitives.md R241): the operations engine by engine, then the
entries of the agenda. -/

namespace Sys2Proof.Machine

variable {s t : State}

/-! ### Operations of the command channel -/

/-- The answer of an operation that has done bus work and changed no register since. -/
theorem DoesBus.answer_inv {items : List BusItem} {m : State} (hm : DoesBus s items m) (h : Inv s) {k : Result} {st : Status} {v : Word}
    (hk : k = .next (m.withRsp st v)) : Leaves k Inv := hk ▸ .next ((hm.inv h).rsp st v)

theorem execWrite_inv (h : Inv s) (hb : s.build.backend = .lora) (a n v : Byte) (reg : Half) :
    Leaves (exec (.lwcmd a n) s) Inv ∧ Leaves (exec (.lwbuf a n) s) Inv ∧ Leaves (exec (.lwreg reg v) s) Inv := by
  obtain ⟨hshort, hlong, m, hm, he⟩ := writePrimitivesResult s a n v reg hb h.lora.deselected h.build.maxAttempts_pos
  have hreg := hm.answer_inv h he
  by_cases hn : s.lora.lpbLen < n.toNat
  · have refused (i : Instr) (hi : i ∈ [Instr.lwcmd a n, .lwbuf a n]) : Leaves (exec i s) Inv := by
      rw [hshort hn i hi]
      exact .next (h.refused _)
    exact ⟨refused _ (by simp), refused _ (by simp), hreg⟩
  · obtain ⟨⟨m₁, hm₁, he₁⟩, m₂, hm₂, he₂⟩ := hlong (Nat.le_of_not_lt hn)
    exact ⟨hm₁.answer_inv h he₁, hm₂.answer_inv h he₂, hreg⟩

theorem execLsend_inv (h : Inv s) (hb : s.build.backend = .lora) (len : Byte) : Leaves (exec (.lsend len) s) Inv := by
  obtain ⟨hshort, hlong⟩ := lsendResult s len hb h.lora.deselected h.build.maxAttempts_pos
  by_cases hl : s.lora.lpbLen < len.toNat
  · rw [hshort hl]
    exact .next (h.refused _)
  · obtain ⟨m, hm, he⟩ := hlong (Nat.le_of_not_lt hl)
    have hi := hm.inv h
    have hlora : m.build.backend = .lora := by rwa [hm.build]
    rw [he]
    exact .next { hi with
      lora := { hi.lora with pa := ⟨fun _ => rfl, fun _ => rfl⟩ }
      avail := { hi.avail with }
      ptt := fun hafsk => by simp [hlora] at hafsk }

theorem execConfig_inv (h : Inv s) (hb : s.build.backend = .lora) (tmo : BitVec 24) (hz : Word) (level : Byte) :
    Leaves (exec (.lsetrx tmo) s) Inv ∧ Leaves (exec (.lsetfreq hz) s) Inv ∧ Leaves (exec (.lsetpwr level) s) Inv := by
  obtain ⟨⟨m₁, hm₁, he₁⟩, ⟨m₂, hm₂, he₂⟩, _, m₃, -, hm₃, he₃⟩ :=
    radioConfigResult s tmo hz level hb h.lora.deselected h.build.maxAttempts_pos
  have h₁ := hm₁.inv h
  have h₂ := hm₂.inv h
  have h₃ := hm₃.inv h
  rw [he₁, he₂, he₃]
  exact ⟨.next { h₁ with lora := { h₁.lora with pa := ⟨nofun, nofun⟩ } }, .next { h₂ with lora := { h₂.lora with } },
    .next { h₃ with lora := { h₃.lora with } }⟩

theorem execLpoll_inv (h : Inv s) (hb : s.build.backend = .lora) : Leaves (exec .lpoll s) Inv := by
  obtain ⟨hi, lo, hidle, hrx, htimeout, htx⟩ := lpollResult s hb h.lora.deselected h.build.maxAttempts_pos
  have nothing {items : List BusItem} (hn : ∃ m, DoesBus s items m ∧ exec .lpoll s = .next (m.withRsp .ok 0)) : Leaves (exec .lpoll s) Inv := by
    obtain ⟨m, hm, he⟩ := hn
    exact hm.answer_inv h he
  have done {items : List BusItem} {m : State} (hm : DoesBus s items m) (hmode : s.lora.loraMode = .rx) {e : Half}
      (he : e &&& 0xF800 = 0) : Inv { m with lora.loraMode := .standby, events.evt := m.events.evt ||| e } := by
    have hm' := hm.inv h
    have hpa : m.lora.paEnable ≠ true := fun hp => by
      have htx := hm'.lora.pa.1 hp
      rw [hm.loraMode, hmode] at htx
      cases htx
    exact { hm' with lora := { hm'.lora with pa := ⟨fun hp => absurd hp hpa, nofun⟩ }, evt := reserved_or hm'.evt he }
  cases hmode : s.lora.loraMode with
  | standby => exact nothing (hidle (.inl hmode))
  | rx =>
    by_cases hd : (hi ++ lo) &&& s.build.chip.irqRxDone ≠ 0
    · obtain ⟨m, hm, he⟩ := hrx hmode hd
      rw [he]
      exact .next ((done hm hmode rfl).rsp _ _)
    · by_cases ht : (hi ++ lo) &&& s.build.chip.irqTimeout ≠ 0
      · obtain ⟨m, hm, he⟩ := htimeout hmode hd ht
        rw [he]
        exact .next ((done hm hmode rfl).rsp _ _)
      · exact nothing (hidle (.inr (.inl ⟨hmode, hd, ht⟩)))
  | tx =>
    by_cases hend : (hi ++ lo) &&& s.build.chip.irqTxDone ≠ 0 ∨ (hi ++ lo) &&& s.build.chip.irqTimeout ≠ 0
    · obtain ⟨m, hm, he⟩ := htx hmode hend
      rw [he]
      have hm' := hm.inv h
      have hlora : m.build.backend = .lora := by rwa [hm.build]
      have hflag : (if (hi ++ lo) &&& s.build.chip.irqTxDone ≠ 0 then 0x0020 else 0x0010 : Half) &&& 0xF800 = 0 := by
        split <;> rfl
      exact .next { hm' with
        lora := { hm'.lora with pa := ⟨nofun, nofun⟩ }
        avail := { hm'.avail with }
        ptt := fun hafsk => by simp [hlora] at hafsk
        evt := reserved_or hm'.evt hflag }
    · obtain ⟨hd, ht⟩ := not_or.1 hend
      exact nothing (hidle (.inr (.inr ⟨hmode, hd, ht⟩)))

theorem execLrcmd_inv (h : Inv s) (opc p n : Byte) : Leaves (execLrcmd opc p n s) Inv := by
  unfold execLrcmd
  dsimp only
  obtain ⟨hlen, hr⟩ := readTransaction_inv h opc (lpbBytes s p.toNat) n.toNat
  exact .onLora h.refused fun _ => .ite (fun _ => .respond (h.refused _)) fun _ => .respond ((storeLpb_inv hr hlen).rsp _ _)

theorem getIrq_inv (h : Inv s) : Inv (getIrq s).2 := (readTransaction_inv h _ [] 2).2

theorem execLrecv_inv (cap : Half) (h : Inv s) : Leaves (execLrecv cap s) Inv := by
  unfold execLrecv
  dsimp only
  have h₁ := getIrq_inv h
  generalize getIrq s = r₁ at h₁ ⊢
  have h₂ := (readTransaction_inv h₁ r₁.2.build.chip.opcGetRxBufferStatus [] 2).2
  generalize readTransaction r₁.2.build.chip.opcGetRxBufferStatus [] 2 r₁.2 = r₂ at h₂ ⊢
  refine .onLora h.refused fun _ => .ite (fun _ => .respond (h₁.rsp _ _)) fun _ => .ite (fun _ => .respond (h₂.rsp _ _)) fun _ => ?_
  obtain ⟨hlen, h₃⟩ := readTransaction_inv h₂ r₂.2.build.chip.opcReadBuffer [r₂.1.getD 1 0] (r₂.1.getD 0 0).toNat
  exact .respond ((storeLpb_inv h₃ hlen).rsp _ _)

theorem execLpktst_inv (h : Inv s) : Leaves (execLpktst s) Inv := by
  unfold execLpktst
  dsimp only
  obtain ⟨hlen, hr⟩ := readTransaction_inv h s.build.chip.opcGetPacketStatus [] 3
  exact .onLora h.refused fun _ => .respond ((storeLpb_inv (n := 3) hr hlen).rsp _ _)

theorem execLrbuf_inv (h : Inv s) (off n : Byte) : Leaves (execLrbuf off n s) Inv := by
  unfold execLrbuf
  dsimp only
  obtain ⟨hlen, hr⟩ := readTransaction_inv h s.build.chip.opcReadBuffer [off] n.toNat
  exact .onLora h.refused fun _ => .respond ((storeLpb_inv hr hlen).rsp _ _)

theorem execLrreg_inv (h : Inv s) (addr : Half) : Leaves (execLrreg addr s) Inv := by
  unfold execLrreg
  dsimp only
  exact .onLora h.refused fun _ => .respond ((readTransaction_inv h _ _ 1).2.rsp _ _)

theorem execLrssi_inv (h : Inv s) : Leaves (execLrssi s) Inv := by
  unfold execLrssi
  dsimp only
  exact .onLora h.refused fun _ => .respond ((readTransaction_inv h _ _ 1).2.rsp _ _)

theorem execLwait_inv (h : Inv s) (hb : s.build.backend = .lora) (form : WaitForm) (tmo : Half) :
    Leaves (exec (.lwait form tmo) s) Inv := by
  obtain ⟨hrange, ⟨idle, m, hm, he⟩, idle', m', hm', he'⟩ := lwaitResult s tmo hb
  cases form with
  | single => exact hm'.answer_inv h he'
  | polled =>
    by_cases ht : tmo = 0
    · subst ht
      exact hm.answer_inv h he
    · rw [hrange ht]
      exact .next (h.refused _)

theorem execLpbput_inv (h : Inv s) (v : Byte) : Leaves (execLpbput v s) Inv :=
  .onLora h.refused fun _ => .ite (fun _ => .respond (h.refused _)) fun hfull => by
    have hroom : s.lora.lpbLen < s.build.lpbCap := Nat.lt_of_le_of_ne h.lora.lpbLen_le hfull
    exact .respond { h with lora := { h.lora with
      lpbLen_le := hroom
      lpb_wf := Memory.write_wf _ _ _ h.lora.lpb_wf
      lpb_within := Memory.write_within _ h.lora.lpb_within hroom } }

/-- An operation of the LORA build: refused in the other build. -/
theorem exec_loraOp_inv {i : Instr} {k : Result} (hk : exec i s = onLora s k) (h : Inv s)
    (hi : s.build.backend = .lora → Leaves (exec i s) Inv) : Leaves (exec i s) Inv := by
  by_cases hb : s.build.backend = .lora
  · exact hi hb
  · rw [hk, onLora_absent hb]
    exact .next (h.refused _)

/-! ### The other operations -/

theorem Reg.write_inv (r : Reg) (v : Word) (h : Inv s) : Inv (r.write v s) := by
  cases r <;> exact { h with cap := { h.cap with }, lora := { h.lora with } }

theorem execWrreg_inv (idx : Byte) (v : Word) (h : Inv s) : Leaves (execWrreg idx v s) Inv := by
  unfold execWrreg
  cases Reg.ofIndex idx with
  | none => exact .respond (h.refused _)
  | some r =>
    refine .ite (fun _ => ?_) fun _ => .respond (h.refused _)
    cases r.writeMask? with
    | none => exact .respond (h.refused _)
    | some m => exact .ite (fun _ => .respond ((r.write_inv v h).rsp _ _)) fun _ => .respond (h.refused _)

theorem execRdreg_inv (idx : Byte) (h : Inv s) : Leaves (execRdreg idx s) Inv := by
  unfold execRdreg
  cases Reg.ofIndex idx with
  | none => exact .respond (h.refused _)
  | some r => exact .ite (fun _ => .respond (h.rsp _ _)) fun _ => .respond (h.refused _)

theorem execTxqpush_inv (v : Byte) (h : Inv s) : Leaves (execTxqpush v s) Inv :=
  .onAfsk h.refused fun _ => .ite (fun _ => .respond (h.refused _)) fun hfull => by
    have hroom : s.tx.txq.length < s.build.txqDepth := Nat.lt_of_le_of_ne h.tx.queue_le hfull
    exact .respond { h with tx := { h.tx with queue_le := by simpa using hroom } }

theorem exec_ringOp_inv {i : Instr} (hi : isRingOp i = true) (h : Inv s) : Leaves (exec i s) Inv := by
  have busy {k : Result} (hk : Leaves k Inv) : Leaves (if s.workerActive then s.refuse .busy else k) Inv :=
    .ite (fun _ => .respond (h.refused _)) fun _ => hk
  have hfrag := h.build.fragLen_pos
  have hwrap : ∀ x, x % s.build.ringCap < s.build.ringCap := fun x => Nat.mod_lt x (Nat.lt_of_lt_of_le Nat.two_pos h.build.ringCap_ge)
  cases i with
  | rbnext => exact .onRing h.refused fun _ => busy (.respond ((nextFrame_inv h).rsp _ _))
  | rbput v => exact .onRing h.refused fun _ => busy (.respond ((put_inv h v).rsp _ _))
  | rbget => exact .onRing h.refused fun _ => .respond { h with ring := { h.ring with readCursor_lt := hwrap _ } }
  | rbeof => exact .onRing h.refused fun _ => .respond (h.rsp _ _)
  | rbreset => exact .onRing h.refused fun _ => .respond { h with ring := { h.ring with readCursor_lt := h.ring.committed_lt } }
  | rblast =>
    exact .onRing h.refused fun _ => busy (.respond { h with ring := { h.ring with
      readCursor_lt := h.ring.provisional_lt
      committed_lt := h.ring.provisional_lt
      committed_le := h.ring.provisional_le } })
  | capstart force =>
    exact .onRing h.refused fun _ => busy (.respond { nextFrame_inv h with cap := h.cap.emptied h.build _ _ _ })
  | capstop => exact .onRing h.refused fun _ => .respond { h with cap := h.cap.emptied h.build _ _ _ }
  | _ => cases hi

theorem exec_inv (i : Instr) (h : Inv s) : Leaves (exec i s) Inv := by
  cases i with
  | nop => exact .respond (h.refused _)
  | rdreg idx => exact execRdreg_inv idx h
  | wrreg idx v => exact execWrreg_inv idx v h
  | evclr m => exact .next { h with evt := reserved_and h.evt }
  | sreset => exact .next ((restart_inv h.build h.memories).rsp _ _)
  | setmode | clkstop => exact .onAfsk h.refused fun _ => .respond { h with }
  | ptt on =>
    exact .onAfsk h.refused fun _ => .respond { h with tx := { h.tx with }, avail := { h.avail with }, ptt := fun _ => rfl }
  | require => exact exec_require_inv h
  | release => exact exec_release_inv h
  | rbnext | rbput | rbget | rbeof | rbreset | rblast | capstart | capstop => exact exec_ringOp_inv rfl h
  | txqpush v => exact execTxqpush_inv v h
  | txstart => exact execTxstart_inv h
  | strclr | strput | strget | s2a | a2s | axflg | axrd | axssid | axndigi | axctl | axenc | axdec | s2d | d2s | axbclr | axbput
  | axbget => exact exec_codecOp_inv rfl h
  | lpbclr => exact .onLora h.refused fun _ => .respond { h with lora := { h.lora with lpbLen_le := Nat.zero_le _ } }
  | lpbput v => exact execLpbput_inv h v
  | lpbrd idx => exact .onLora h.refused fun _ => .ite (fun _ => .respond (h.refused _)) fun _ => .respond (h.rsp _ _)
  | lwcmd opc n => exact exec_loraOp_inv rfl h fun hb => (execWrite_inv h hb opc n 0 0).1
  | lwbuf off n => exact exec_loraOp_inv rfl h fun hb => (execWrite_inv h hb off n 0 0).2.1
  | lwreg addr v => exact exec_loraOp_inv rfl h fun hb => (execWrite_inv h hb 0 0 v addr).2.2
  | lrcmd opc p n => exact execLrcmd_inv h opc p n
  | lrreg addr => exact execLrreg_inv h addr
  | lrbuf off n => exact execLrbuf_inv h off n
  | lsend len => exact exec_loraOp_inv rfl h fun hb => execLsend_inv h hb len
  | lrecv cap => exact execLrecv_inv cap h
  | lsetrx tmo => exact exec_loraOp_inv rfl h fun hb => (execConfig_inv h hb tmo 0 0).1
  | lsetfreq hz => exact exec_loraOp_inv rfl h fun hb => (execConfig_inv h hb 0 hz 0).2.1
  | lsetpwr level => exact exec_loraOp_inv rfl h fun hb => (execConfig_inv h hb 0 0 level).2.2
  | lpoll => exact exec_loraOp_inv rfl h fun hb => execLpoll_inv h hb
  | lrssi => exact execLrssi_inv h
  | lpktst => exact execLpktst_inv h
  | lwait form tmo => exact exec_loraOp_inv rfl h fun hb => execLwait_inv h hb form tmo

/-! ### Steps -/

theorem runWord_inv (w : CmdWord) (h : Inv s) : Leaves (runWord w s) Inv := runWord_leaves h.refused fun i _ => exec_inv i h

theorem resetLow_inv (h : Inv s) : Inv (resetLow s) := { restart_inv h.build h.memories with }

theorem runStimulus_inv (e : Stimulus) (h : Inv s) : Leaves (runStimulus e s) Inv := by
  cases e with
  | command w => exact .whileUp h (runWord_inv w h)
  | tick => exact .whileUp h (.next (runTick_inv h))
  | capStep => exact .whileUp h (.next (runCapStep_inv h))
  | squelchEdge v =>
    have hpin : Inv { s with env.squelchOpen := v } := { h with }
    exact .whileUp hpin (.next (squelchEdge_inv v hpin))
  | powerDown => exact .whileUp h (.next (runPowerDown_inv h))
  | resetLow => exact .next (resetLow_inv h)
  | resetHigh =>
    refine .next ?_
    unfold resetHigh
    split
    · exact h
    · exact { restart_inv h.build h.memories with }
  | resetDuring w k =>
    refine .whileUp h (runCut_leaves fun t ht => ?_)
    have ht := runWord_inv w h t ht
    split
    · have hkept : Inv { s with env := t.env } := { h with }
      exact { resetLow_inv hkept with }
    · exact { resetLow_inv ht with }
  | squelchPin v | allocPin v => exact .next { h with }

/-- Settles O60: every agenda entry keeps the invariant. -/
theorem stepKeepsInv : Obligations.StepKeepsInv := by
  unfold Obligations.StepKeepsInv
  intro s t h hstep
  have hbegin (rest : List Stimulus) : Inv (s.begin rest) := { h with }
  cases hag : s.env.agenda with
  | nil =>
    rw [step_of_nil hag] at hstep
    cases hstep
    exact hbegin []
  | cons e rest =>
    rw [step_of_cons hag] at hstep
    exact runStimulus_inv e (hbegin rest) t hstep

end Sys2Proof.Machine
end

section
/-! Reset (10_state.md R66, 70_reset_and_hazards.md R360 to R362): what SRESET and the edges of `rst_n` leave, and the cut of an
operation. -/

namespace Sys2Proof.Machine

theorem ring_sampled (b : Backend) (ok : Bool) : (b == .afsk && ok) = if b = .afsk then ok else false := by cases b <;> rfl

theorem allocFail_sampled (b : Backend) (ok : Bool) (x y : Half) :
    (if (b == .afsk && !ok) = true then x else y) = if b = .afsk ∧ ok = false then x else y := by
  cases b <;> cases ok <;> rfl

/-- Settles O11: the two fields that sample `rb_alloc_ok` in the AFSK build; the others are the reset values as they stand. -/
theorem sresetResult : Obligations.SresetResult := by
  unfold Obligations.SresetResult
  intro s
  rw [← ring_sampled, ← allocFail_sampled]
  rfl

theorem exec_sreset (s : State) : exec .sreset s = .next (s.restart.withRsp .ok 0) := rfl

theorem step_of_resetLow {s : State} {rest : List Stimulus} (hag : s.env.agenda = .resetLow :: rest) :
    step s = .next (resetLow (s.begin rest)) := step_of_cons hag

theorem step_of_resetHigh {s : State} {rest : List Stimulus} (hag : s.env.agenda = .resetHigh :: rest) (hlow : s.env.rstN = false) :
    step s = .next { (s.begin rest).restart with env.rstN := true } := by
  have hr : (s.begin rest).env.rstN ≠ true := by simp [hlow]
  exact (step_of_cons hag).trans (congrArg Host.Outcome.next (if_neg hr))

theorem step_of_resetDuring {s u : State} {rest : List Stimulus} {w : CmdWord} {k : Nat}
    (hag : s.env.agenda = .resetDuring w k :: rest) (hup : s.env.rstN = true) (hw : runWord w (s.begin rest) = .next u) :
    step s =
      .next { resetLow (if k < u.out.trace.length then { s.begin rest with env := u.env } else u) with
              out := { StepOut.none with trace := u.out.trace.take k } } :=
  (step_of_cons hag).trans ((whileUp_up (s := s.begin rest) hup _).trans (runCut_of_runWord hw k))

/-- With every event masked the interrupt line is 0 (R36). -/
theorem restart_levels (s : State) :
    State.levels { s.restart with env.rstN := false } =
      { cmdReady := false, irq := false, toneOn := false, toneSel := .mark, ptt := false, radioPwr := false
        loraCsN := true, loraRstN := true, paEn := false } := by
  have hirq : State.irq { s.restart with env.rstN := false } = false := by
    change (s.restart.events.evt &&& 0 != 0) = false
    simp
  rw [State.levels, hirq]
  rfl

/-- A reset of what is kept of a cut operation: the registers do not depend on which memories were kept. -/
theorem restart_of_kept {s t : State} (hb : t.build = s.build) :
    State.restart { s with env := t.env } =
      { t.restart with
        ring.buf := s.ring.buf
        cap.frag := s.cap.frag
        codec.axb := s.codec.axb
        codec.strb := s.codec.strb
        lora.lpb := s.lora.lpb
        out := s.out } := by
  unfold State.restart
  rw [hb]

theorem whileLow {s : State} {e : Stimulus} (hlow : s.env.rstN = false)
    (he : (∃ w, e = .command w) ∨ e = .tick ∨ e = .capStep ∨ e = .powerDown) : runStimulus e s = .next s := by
  obtain ⟨w, rfl⟩ | rfl | rfl | rfl := he <;> exact whileUp_low hlow _

/-- Settles O12: an edge is a reset without its response; a cut is a reset of the memories that are kept. -/
theorem resetPinResult : Obligations.ResetPinResult := by
  unfold Obligations.ResetPinResult
  intro s rest u
  refine ⟨fun hag => ?_, fun hag hlow => ?_, fun e hag hlow he => ?_, fun w k hag hup => ?_⟩
  · exact ⟨_, exec_sreset u, step_of_resetLow hag, restart_levels (u.withRsp .ok 0)⟩
  · exact ⟨_, exec_sreset u, step_of_resetHigh hag hlow⟩
  · exact (step_of_cons hag).trans (whileLow (s := s.begin rest) hlow he)
  · obtain ⟨u', -, hw, -⟩ := runWord_answers w u
    refine ⟨u', _, _, hw, step_of_resetDuring hag hup hw, exec_sreset u', ?_⟩
    by_cases hk : k < u'.out.trace.length
    · rw [if_pos hk, if_pos hk]
      have hkept := restart_of_kept (runWord_keepsUnread w u u' hw).build
      exact ⟨rfl, rfl, rfl, rfl, congrArg (fun r : State =>
        { r with env := { r.env with rstN := false }, out := { StepOut.none with trace := u'.out.trace.take k } }) hkept⟩
    · rw [if_neg hk, if_neg hk]
      exact ⟨rfl, rfl, rfl, rfl, rfl⟩

end Sys2Proof.Machine
end

section
/-! The register file (10_state.md R40, 47_availability_system.md R301, R302): each row of the map is a register of the model, which a
read returns and a write sets. -/

namespace Sys2Proof.Machine

/-! ### Rows and registers -/

theorem bitWord_eq (v : Bool) : bitWord v = bitAt 0 v := by cases v <;> rfl

theorem bitAt_zero_shiftLeft (v : Bool) (k : Nat) : bitAt 0 v <<< k = bitAt k v := by
  cases v
  · exact BitVec.zero_shiftLeft k
  · rfl

theorem Reg.read_capst (s : State) :
    Reg.capst.read s = s.cap.capState.word ||| bitAt 2 s.cap.capForce ||| bitAt 3 s.cap.pendingBoundary := by
  simp only [Reg.read, bitWord_eq, bitAt_zero_shiftLeft]

theorem Reg.read_lmode (s : State) :
    Reg.lmode.read s =
      s.lora.loraMode.word ||| bitAt 2 s.lora.paEnable ||| bitAt 3 s.lora.csAsserted ||| bitAt 4 s.lora.loraRst := by
  simp only [Reg.read, bitWord_eq, bitAt_zero_shiftLeft]

/-- The register `g` is the one the row `r` of R40 describes. -/
structure Reg.IsRow (g : Reg) (r : RegRow) : Prop where
  index : Reg.ofIndex r.idx = some g
  back  : g.backend? = r.back
  write : g.writeMask? = r.write
  read  : ∀ s, g.read s = r.value s

theorem registerMapBoth_rows : ∀ r ∈ registerMapBoth, ∃ g : Reg, g.IsRow r := by
  simp only [registerMapBoth, List.mem_cons, List.not_mem_nil, or_false, forall_eq_or_imp, forall_eq]
  refine ⟨?id, ?caps, ?evt, ?evmask, ?cond, ?usecnt, ?sql, ?logwarn, ?logfail, ?axndigi, ?axctlpid, ?axblvl, ?strlvl⟩
  case caps => exact ⟨.caps, rfl, rfl, rfl, fun s => by simp only [Reg.read, bitWord_eq, bitAt_zero_shiftLeft]⟩
  case cond => exact ⟨.cond, rfl, rfl, rfl, fun s => by simp only [Reg.read, bitWord_eq, bitAt_zero_shiftLeft]⟩
  all_goals exact ⟨_, rfl, rfl, rfl, fun _ => rfl⟩

theorem registerMapAfsk_rows : ∀ r ∈ registerMapAfsk, ∃ g : Reg, g.IsRow r := by
  simp only [registerMapAfsk, List.mem_cons, List.not_mem_nil, or_false, forall_eq_or_imp, forall_eq]
  refine ⟨?clkctl, ?rd, ?wr, ?cstart, ?clen, ?pstart, ?plen, ?cap, ?capst, ?capcnt, ?caplen, ?capmin, ?dcoff, ?scale, ?fragst, ?txst,
    ?txqlvl⟩
  case clkctl => exact ⟨.clkctl, rfl, rfl, rfl, fun s => by simp only [Reg.read, bitWord_eq, bitAt_zero_shiftLeft]⟩
  case capst => exact ⟨.capst, rfl, rfl, rfl, Reg.read_capst⟩
  case txst => exact ⟨.txst, rfl, rfl, rfl, fun s => by simp only [Reg.read, bitWord_eq, bitAt_zero_shiftLeft]⟩
  all_goals exact ⟨_, rfl, rfl, rfl, fun _ => rfl⟩

theorem registerMapLora_rows : ∀ r ∈ registerMapLora, ∃ g : Reg, g.IsRow r := by
  simp only [registerMapLora, List.mem_cons, List.not_mem_nil, or_false, forall_eq_or_imp, forall_eq]
  refine ⟨?lmode, ?llast, ?lpblen, ?cfgfreq, ?cfgsf, ?cfgcr, ?cfgpwr, ?rxtmo, ?pktpre, ?pktflags, ?busytmo, ?retrymax, ?cfgbw⟩
  case lmode => exact ⟨.lmode, rfl, rfl, rfl, Reg.read_lmode⟩
  all_goals exact ⟨_, rfl, rfl, rfl, fun _ => rfl⟩

theorem registerMap_rows {r : RegRow} (hr : r ∈ registerMap) : ∃ g : Reg, g.IsRow r := by
  obtain hr | hr := List.mem_append.1 hr
  · obtain hr | hr := List.mem_append.1 hr
    · exact registerMapBoth_rows r hr
    · exact registerMapAfsk_rows r hr
  · exact registerMapLora_rows r hr

theorem ofIndex_of_unassigned : ∀ idx : Byte, idx ∉ registerMap.map RegRow.idx → Reg.ofIndex idx = none := by decide +kernel

theorem Reg.present_eq (g : Reg) (b : Build) : g.present b = g.backend?.all (· == b.backend) := by
  unfold Reg.present
  cases g.backend? <;> rfl

theorem Reg.IsRow.present {g : Reg} {r : RegRow} (h : g.IsRow r) (b : Build) : g.present b = r.admits b := by
  rw [g.present_eq, h.back]
  rfl

theorem Reg.present_of_backend {g : Reg} {b : Build} {k : Backend} (hg : g.backend? = some k) (hb : b.backend = k) :
    g.present b = true := by
  rw [g.present_eq, hg, hb]
  exact beq_self_eq_true k

/-! ### Reads -/

theorem exec_rdreg_of_unassigned {idx : Byte} (h : Reg.ofIndex idx = none) (s : State) :
    exec (.rdreg idx) s = .next (s.withRsp .range 0) := by
  rw [exec, execRdreg, h]
  rfl

theorem exec_rdreg {idx : Byte} {g : Reg} (h : Reg.ofIndex idx = some g) (s : State) :
    exec (.rdreg idx) s = .next (if g.present s.build then s.withRsp .ok (g.read s) else s.withRsp .absent 0) := by
  rw [exec, execRdreg, h]
  dsimp only
  split <;> rfl

/-- Settles O8: row by row, and no other index names a register. -/
theorem rdregResult : Obligations.RdregResult := by
  unfold Obligations.RdregResult
  intro s
  refine ⟨fun r hr => ?_, fun idx hidx => exec_rdreg_of_unassigned (ofIndex_of_unassigned idx hidx) s⟩
  obtain ⟨g, hg⟩ := registerMap_rows hr
  rw [exec_rdreg hg.index, hg.present, hg.read]

/-! ### Writes -/

section
variable {idx : Byte} {g : Reg} {v m : Word} {s : State}

theorem exec_wrreg_of_unassigned (h : Reg.ofIndex idx = none) (v : Word) (s : State) :
    exec (.wrreg idx v) s = .next (s.withRsp .range 0) := by
  rw [exec, execWrreg, h]
  rfl

theorem exec_wrreg_of_absent (h : Reg.ofIndex idx = some g) (hp : g.present s.build = false) (v : Word) :
    exec (.wrreg idx v) s = .next (s.withRsp .absent 0) := by
  rw [exec, execWrreg, h]
  dsimp only
  rw [hp]
  rfl

theorem exec_wrreg_of_refused (h : Reg.ofIndex idx = some g) (hp : g.present s.build = true)
    (hv : ∀ m, g.writeMask? = some m → v &&& ~~~m ≠ 0) : exec (.wrreg idx v) s = .next (s.withRsp .range 0) := by
  rw [exec, execWrreg, h]
  dsimp only
  rw [if_pos hp]
  cases hm : g.writeMask? with
  | none => rfl
  | some m => exact if_neg (hv m hm)

theorem exec_wrreg (h : Reg.ofIndex idx = some g) (hp : g.present s.build = true) (hm : g.writeMask? = some m)
    (hv : v &&& ~~~m = 0) : exec (.wrreg idx v) s = .next ((g.write v s).withRsp .ok 0) := by
  rw [exec, execWrreg, h]
  dsimp only
  rw [if_pos hp, hm]
  exact if_pos hv

/-- A write that was accepted wrote a register of the build, within its bits. -/
theorem exec_wrreg_inv {t : State} (h : exec (.wrreg idx v) s = .next t) (hok : t.out.rsp = some ⟨.ok, 0⟩) :
    ∃ g m, Reg.ofIndex idx = some g ∧ g.present s.build = true ∧ g.writeMask? = some m ∧ v &&& ~~~m = 0 ∧
      t = (g.write v s).withRsp .ok 0 := by
  have refused {st : Status} (hst : st ≠ .ok) (he : exec (.wrreg idx v) s = .next (s.withRsp st 0)) : False := by
    cases h.symm.trans he
    cases hok
    exact hst rfl
  cases hi : Reg.ofIndex idx with
  | none => exact (refused (st := .range) nofun (exec_wrreg_of_unassigned hi v s)).elim
  | some g =>
    cases hp : g.present s.build with
    | false => exact (refused (st := .absent) nofun (exec_wrreg_of_absent hi hp v)).elim
    | true =>
      by_cases hv : ∃ m, g.writeMask? = some m ∧ v &&& ~~~m = 0
      · obtain ⟨m, hm, hv⟩ := hv
        cases h.symm.trans (exec_wrreg hi hp hm hv)
        exact ⟨g, m, rfl, hp, hm, hv, rfl⟩
      · exact (refused (st := .range) nofun (exec_wrreg_of_refused hi hp fun m hm h₀ => hv ⟨m, hm, h₀⟩)).elim

end

/-- Settles O9: the refusals over the map, then each writable register. -/
theorem wrregResult : Obligations.WrregResult := by
  unfold Obligations.WrregResult
  intro s v
  refine ⟨fun idx hidx => exec_wrreg_of_unassigned (ofIndex_of_unassigned idx hidx) v s, fun r hr hb => ?absent,
    fun r hr hb hv => ?refused, exec_wrreg (g := .evmask) rfl rfl rfl, exec_wrreg (g := .sql) rfl rfl rfl, fun hb => ?dcoff,
    fun hb => ?scale, fun hb => ⟨?cfgfreq, ?cfgsf, ?cfgcr, ?cfgpwr, ?pktpre, ?pktflags, ?busytmo, ?cfgbw⟩⟩
  case absent =>
    obtain ⟨g, hg⟩ := registerMap_rows hr
    exact exec_wrreg_of_absent hg.index ((hg.present _).trans hb) v
  case refused =>
    obtain ⟨g, hg⟩ := registerMap_rows hr
    exact exec_wrreg_of_refused hg.index ((hg.present _).trans hb) fun m hm => hv m (hg.write ▸ hm)
  case dcoff => exact exec_wrreg (g := .dcoff) rfl (Reg.present_of_backend rfl hb) rfl
  case scale => exact exec_wrreg (g := .scale) rfl (Reg.present_of_backend rfl hb) rfl
  case cfgfreq => exact exec_wrreg (g := .cfgfreq) rfl (Reg.present_of_backend rfl hb) rfl (and_not_allOnes v)
  case cfgsf => exact exec_wrreg (g := .cfgsf) rfl (Reg.present_of_backend rfl hb) rfl
  case cfgcr => exact exec_wrreg (g := .cfgcr) rfl (Reg.present_of_backend rfl hb) rfl
  case cfgpwr => exact exec_wrreg (g := .cfgpwr) rfl (Reg.present_of_backend rfl hb) rfl
  case pktpre => exact exec_wrreg (g := .pktpre) rfl (Reg.present_of_backend rfl hb) rfl
  case pktflags => exact exec_wrreg (g := .pktflags) rfl (Reg.present_of_backend rfl hb) rfl
  case busytmo => exact exec_wrreg (g := .busytmo) rfl (Reg.present_of_backend rfl hb) rfl
  case cfgbw => exact exec_wrreg (g := .cfgbw) rfl (Reg.present_of_backend rfl hb) rfl

/-! ### Read-back -/

/-- A value without bits outside a field survives the field. -/
theorem setWidth_setWidth_of_mask {n : Nat} {v : Word} (h : v &&& ~~~((BitVec.allOnes n).setWidth 32) = 0) :
    (v.setWidth n).setWidth 32 = v := by
  ext k hk
  have hbit := congrArg (·.getLsbD k) h
  grind

theorem Reg.write_build (g : Reg) (v : Word) (s : State) : (g.write v s).build = s.build := by cases g <;> rfl

theorem Reg.read_withRsp (g : Reg) (s : State) (st : Status) (x : Word) : g.read (s.withRsp st x) = g.read s := by cases g <;> rfl

theorem Reg.read_write {g : Reg} {v m : Word} (hm : g.writeMask? = some m) (hv : v &&& ~~~m = 0) (s : State) :
    g.read (g.write v s) = v := by
  cases g with
  | evmask | dcoff | pktpre | busytmo => cases hm; exact setWidth_setWidth_of_mask (n := 16) hv
  | sql | cfgpwr | cfgbw => cases hm; exact setWidth_setWidth_of_mask (n := 8) hv
  | scale | cfgsf => cases hm; exact setWidth_setWidth_of_mask (n := 4) hv
  | cfgcr | pktflags => cases hm; exact setWidth_setWidth_of_mask (n := 3) hv
  | cfgfreq => rfl
  | _ => cases hm

/-- Settles O10: the register written is the one read, and `irq` reads the mask. -/
theorem wrregReadsBack : Obligations.WrregReadsBack := by
  unfold Obligations.WrregReadsBack
  intro s t idx v h hok
  obtain ⟨g, m, hi, hp, hm, hv, rfl⟩ := exec_wrreg_inv h hok
  refine ⟨⟨_, exec_rdreg hi _, ?_⟩, ?_⟩
  · have hpt : g.present ((g.write v s).withRsp .ok 0).build = true := by rwa [State.withRsp_build, Reg.write_build]
    rw [if_pos hpt, Reg.read_withRsp, Reg.read_write hm hv]
    rfl
  · rintro rfl
    cases hi
    simp [State.levels, State.irq, Reg.write]

end Sys2Proof.Machine
end

section
/-! The clock, the ring and the capture engine as the host and the events see them (41_ring_buffer.md R131 to R136,
42_capture_and_clock.md R152 to R171). -/

namespace Sys2Proof.Machine

variable {s : State}

/-! ### Gates -/

theorem exec_ring_absent {i : Instr} {k : Result} (hi : exec i s = onRing s k) (hb : s.build.backend ≠ .afsk) :
    exec i s = .next (s.withRsp .absent 0) := by
  rw [hi, onRing, onAfsk_absent hb]

theorem exec_ring_disabled {i : Instr} {k : Result} (hi : exec i s = onRing s k) (hb : s.build.backend = .afsk)
    (he : s.ring.rbEnabled = false) : exec i s = .next (s.withRsp .disabled 0) := by
  rw [hi, onRing_disabled hb he]

/-- The producer's operations while the capture worker is the producer (R131, R132, R136, R155). -/
theorem exec_producer_busy {i : Instr} {k : Result} (hi : exec i s = onRing s (if s.workerActive then s.refuse .busy else k))
    (hb : s.build.backend = .afsk) (he : s.ring.rbEnabled = true) (hw : s.cap.capState = .wait ∨ s.cap.capState = .run) :
    exec i s = .next (s.withRsp .busy 0) := by
  rw [hi, onRing_enabled hb he, if_pos ((workerActive_iff s).2 hw)]
  rfl

/-- The same while the host is the producer. -/
theorem exec_producer_host {i : Instr} {k : Result} (hi : exec i s = onRing s (if s.workerActive then s.refuse .busy else k))
    (hb : s.build.backend = .afsk) (he : s.ring.rbEnabled = true) (hw : s.cap.capState = .idle ∨ s.cap.capState = .done) :
    exec i s = k := by
  have hidle : ¬ s.workerActive = true := by
    rw [workerActive_iff]
    obtain h | h := hw <;> simp [h]
  rw [hi, onRing_enabled hb he, if_neg hidle]

/-! ### Clock and transmit-enable -/

/-- Settles O13: one gate and one register write each. -/
theorem clockAndPttResult : Obligations.ClockAndPttResult := by
  unfold Obligations.ClockAndPttResult
  refine fun s m on => ⟨fun hb => ⟨onAfsk_built hb, onAfsk_built hb, onAfsk_built hb⟩, fun hb i hi => ?_⟩
  simp only [List.mem_cons, List.not_mem_nil, or_false] at hi
  obtain rfl | rfl | rfl := hi <;> exact onAfsk_absent hb

/-! ### Ring -/

theorem exec_rbeof (hb : s.build.backend = .afsk) (he : s.ring.rbEnabled = true) :
    exec .rbeof s = .next (s.withRsp .ok (if s.eof then 1 else 0)) := onRing_enabled hb he

theorem exec_rbget (hb : s.build.backend = .afsk) (he : s.ring.rbEnabled = true) :
    exec .rbget s =
      .next (({ s with ring.readCursor := (s.ring.readCursor + 1) % s.build.ringCap } : State).withRsp
        .ok ((Memory.byteAt .buf s.ring.buf s.ring.readCursor).signExtend 32)) := onRing_enabled hb he

theorem exec_rbreset (hb : s.build.backend = .afsk) (he : s.ring.rbEnabled = true) :
    exec .rbreset s = .next (({ s with ring.readCursor := s.ring.committedFrameStart } : State).withRsp .ok 0) :=
  onRing_enabled hb he

theorem State.eof_iff (s : State) :
    s.eof = true ↔ s.ring.committedFrameLength = 0 ∨ (s.ring.readCursor = s.ring.writeCursor ∧ s.unread = 0) ∨
      s.inNewer s.ring.readCursor = true := by
  simp [State.eof, or_assoc]

/-- Settles O15: the gates once for the five operations, then each one's rule. -/
theorem ringReadersAndMarkersResult : Obligations.RingReadersAndMarkersResult := by
  unfold Obligations.RingReadersAndMarkersResult
  refine fun s => ⟨fun hb i hi => ?absent, fun hb he i hi => ?disabled, fun hb he => ⟨fun hw => ?busy, fun hw => ?host,
    exec_rbget hb he, exec_rbreset hb he, ?eof⟩⟩
  case absent =>
    simp only [List.mem_cons, List.not_mem_nil, or_false] at hi
    obtain rfl | rfl | rfl | rfl | rfl := hi <;> exact exec_ring_absent rfl hb
  case disabled =>
    simp only [List.mem_cons, List.not_mem_nil, or_false] at hi
    obtain rfl | rfl | rfl | rfl | rfl := hi <;> exact exec_ring_disabled rfl hb he
  case busy => exact ⟨exec_producer_busy rfl hb he hw, exec_producer_busy rfl hb he hw⟩
  case host => exact ⟨exec_producer_host rfl hb he hw, exec_producer_host rfl hb he hw⟩
  case eof => simp only [exec_rbeof hb he, State.eof_iff]

theorem exec_rbput (hb : s.build.backend = .afsk) (he : s.ring.rbEnabled = true)
    (hw : s.cap.capState = .idle ∨ s.cap.capState = .done) (v : Byte) :
    exec (.rbput v) s = .next ((put v s).withRsp .ok 0) := exec_producer_host rfl hb he hw

theorem put_of_dropped {v : Byte}
    (h : (0 < s.unread ∧ s.ring.writeCursor = s.ring.readCursor) ∨ s.ring.provisionalFrameLength = s.build.ringCap - 1) :
    put v s = s := by
  obtain ⟨he, -⟩ | ⟨hfree, hroom, -⟩ := put_cases v s
  · exact he
  · exact absurd h (not_or.2 ⟨hfree, hroom⟩)

/-- The state in which the producer has stored a sample (R132). -/
def State.stored (s : State) (v : Byte) : State :=
  { s with
    ring.buf := Memory.write s.ring.buf s.ring.writeCursor v
    ring.writeCursor := (s.ring.writeCursor + 1) % s.build.ringCap
    ring.provisionalFrameLength := s.ring.provisionalFrameLength + 1 }

theorem put_of_free {v : Byte} (hfree : ¬ (0 < s.unread ∧ s.ring.writeCursor = s.ring.readCursor))
    (hroom : s.ring.provisionalFrameLength ≠ s.build.ringCap - 1) : put v s = s.stored v := by
  obtain ⟨-, hdrop⟩ | ⟨-, -, he⟩ := put_cases v s
  · exact absurd hdrop (not_or.2 ⟨hfree, hroom⟩)
  · exact he

/-- Settles O16: the gates, then the two cases of `Put`. -/
theorem rbputResult : Obligations.RbputResult := by
  unfold Obligations.RbputResult
  refine fun s v => ⟨exec_ring_absent rfl, exec_ring_disabled rfl, fun hb he => ⟨exec_producer_busy rfl hb he,
    fun hw => ⟨fun hdrop => ?_, fun hfree hroom => ⟨_, stored_write .buf _ _ v, ?_⟩⟩⟩⟩
  · rw [exec_rbput hb he hw, put_of_dropped hdrop]
  · rw [exec_rbput hb he hw, put_of_free hfree hroom]
    rfl

/-! ### Capture -/

theorem captureState_eq (squelch force : Bool) :
    (if (squelch || force) = true then CapState.run else .wait) = if squelch = true ∨ force = true then .run else .wait := by
  cases squelch <;> cases force <;> rfl

/-- Settles O17: the gates, then the registers each of the two writes. -/
theorem captureControlResult : Obligations.CaptureControlResult := by
  unfold Obligations.CaptureControlResult
  refine fun s force => ⟨fun hb i hi => ?absent, fun hb he i hi => ?disabled, fun hb he => ⟨exec_producer_busy rfl hb he,
    fun hw => ?start, onRing_enabled hb he⟩⟩
  case absent =>
    simp only [List.mem_cons, List.not_mem_nil, or_false] at hi
    obtain rfl | rfl := hi <;> exact exec_ring_absent rfl hb
  case disabled =>
    simp only [List.mem_cons, List.not_mem_nil, or_false] at hi
    obtain rfl | rfl := hi <;> exact exec_ring_disabled rfl hb he
  case start =>
    rw [← captureState_eq]
    exact exec_producer_host rfl hb he hw

theorem step_of_tick {rest : List Stimulus} (hag : s.env.agenda = .tick :: rest) (hup : s.env.rstN = true) :
    step s = .next (runTick (s.begin rest)) := (step_of_cons hag).trans (whileUp_up (s := s.begin rest) hup _)

theorem runTick_of_stopped (h : s.build.backend ≠ .afsk ∨ s.clk.clkRun = false) : runTick s = s := by
  refine if_neg ?_
  obtain h | h := h <;> simp [h]

theorem runTick_of_rx (hb : s.build.backend = .afsk) (hrun : s.clk.clkRun = true) (hmode : s.clk.clkMode = .rx) :
    runTick s = tickRx s := by
  rw [runTick, if_pos ⟨hb, hrun⟩, hmode]

theorem runTick_of_tx (hb : s.build.backend = .afsk) (hrun : s.clk.clkRun = true) (hmode : s.clk.clkMode = .tx) :
    runTick s = tickTx s := by
  rw [runTick, if_pos ⟨hb, hrun⟩, hmode]

theorem tickRx_of_room (hrun : s.cap.capState = .run) (hroom : s.cap.fragFill < s.build.fragLen) :
    tickRx s =
      { s with
        env := s.env.nextAdc.2
        cap.frag := Memory.write s.cap.frag s.cap.fragFill s.env.nextAdc.1
        cap.fragFill := s.cap.fragFill + 1 } := by
  simp only [tickRx, takeAdc_eq]
  exact if_pos ⟨hrun, hroom⟩

theorem tickRx_of_lost (h : ¬ (s.cap.capState = .run ∧ s.cap.fragFill < s.build.fragLen)) :
    tickRx s = { s with env := s.env.nextAdc.2 } := by
  simp only [tickRx, takeAdc_eq]
  exact if_neg h

theorem Env.nextAdc_agenda (e : Env) (rest : List Stimulus) :
    ({ e with agenda := rest } : Env).nextAdc = (e.nextAdc.1, { e.nextAdc.2 with agenda := rest }) := by
  cases h : e.adc <;> simp [Env.nextAdc, h]

theorem State.begin_nextAdc (s : State) (rest : List Stimulus) :
    (s.begin rest).env.nextAdc = (s.env.nextAdc.1, { s.env.nextAdc.2 with agenda := rest }) := s.env.nextAdc_agenda rest

/-- Settles O19: no clock, room for the sample, or none. -/
theorem tickRxResult : Obligations.TickRxResult := by
  unfold Obligations.TickRxResult
  intro s rest hag hup
  rw [step_of_tick hag hup]
  refine ⟨fun h => ?stopped, fun hb hrun hmode => ⟨fun hroom => ?stored, fun hlost => ?lost⟩⟩
  case stopped => rw [runTick_of_stopped (s := s.begin rest) h]; rfl
  case stored =>
    obtain ⟨hcap, hroom⟩ := hroom
    refine ⟨Memory.write s.cap.frag s.cap.fragFill s.env.nextAdc.1, ?_, fun x hx => ?_, ?_⟩
    · rw [Memory.fragAt_write, if_pos rfl]
    · rw [Memory.fragAt_write, if_neg hx]
    · rw [runTick_of_rx (s := s.begin rest) hb hrun hmode, tickRx_of_room (s := s.begin rest) hcap hroom, s.begin_nextAdc rest]
      rfl
  case lost =>
    rw [runTick_of_rx (s := s.begin rest) hb hrun hmode, tickRx_of_lost (s := s.begin rest) hlost, s.begin_nextAdc rest]
    rfl

/-! ### The capture worker -/

theorem boundary_of_none (h : s.cap.capCount = 0) : boundary s = s := if_pos h

theorem boundary_of_short (h : s.cap.capCount ≠ 0) (hs : s.cap.capCount.toNat < s.build.minFrame) :
    boundary s =
      { s with
        ring.provisionalFrameStart := s.ring.writeCursor
        ring.provisionalFrameLength := 0
        cap.capCount := 0
        cap.pendingBoundary := false
        events.evt := s.events.evt ||| 0x0002 } := by
  obtain ⟨h₀, -⟩ | ⟨-, -, he⟩ | ⟨-, hl, -⟩ := boundary_cases s
  · exact absurd h₀ h
  · exact he
  · exact absurd hs (Nat.not_lt.2 hl)

theorem boundary_of_long (h : s.cap.capCount ≠ 0) (hl : s.build.minFrame ≤ s.cap.capCount.toNat) :
    boundary s =
      { s with
        cap.capLen := s.cap.capCount
        cap.capCount := 0
        cap.pendingBoundary := false
        cap.fragFill := 0
        cap.fragIdx := 0
        cap.capState := .done
        events.evt := s.events.evt ||| 0x0001 } := by
  obtain ⟨h₀, -⟩ | ⟨-, hs, -⟩ | ⟨-, -, he⟩ := boundary_cases s
  · exact absurd h₀ h
  · exact absurd hs (Nat.not_lt.2 hl)
  · exact he

/-- Settles O20: skipped, counted and put, ignored, or a boundary in its two outcomes. -/
theorem processSampleResult : Obligations.ProcessSampleResult := by
  unfold Obligations.ProcessSampleResult
  intro s e
  refine ⟨fun h => processSample_of_skipped ?skipped, fun hv hc => ?valid⟩
  case skipped =>
    rintro ⟨hv, hc⟩
    obtain h | h := h
    · simp [h] at hv
    · exact h hc
  case valid =>
    intro v u
    rw [processSample_of_valid ⟨hv, hc⟩]
    refine ⟨fun hd => ⟨fun hdrop => ?drop, fun hfree hroom => ⟨_, stored_write .buf _ _ v, ?stored⟩⟩, fun hd h₀ => ?ignored,
      fun hd h₀ hshort => ?discarded, fun hd h₀ hlong => ?delivered⟩
    case drop => rw [if_pos hd, put_of_dropped (s := s.detected v) hdrop, satInc_eq]; rfl
    case stored => rw [if_pos hd, put_of_free (s := s.detected v) hfree hroom, satInc_eq]; rfl
    case ignored => rw [if_neg (by simp [hd]), if_neg (not_not.2 h₀)]; rfl
    case discarded =>
      rw [if_neg (by simp [hd]), if_pos h₀, boundary_of_short (s := { s.detected v with cap.pendingBoundary := true }) h₀ hshort]
      rfl
    case delivered =>
      rw [if_neg (by simp [hd]), if_pos h₀, boundary_of_long (s := { s.detected v with cap.pendingBoundary := true }) h₀ hlong]
      rfl

/-- What an entry leaves of the worker: the loop test's inputs, and the place in the fragment while the capture goes on. -/
theorem processSample_worker (e : AdcSample) (s : State) :
    captureOpen (processSample e s) = captureOpen s ∧
      ((processSample e s).cap.capState = .run → (processSample e s).cap.fragIdx = s.cap.fragIdx) := by
  have hsquelch : s.env.nextDet.2.squelchOpen = s.env.squelchOpen := by
    unfold Env.nextDet
    split <;> rfl
  by_cases hv : e.valid ∧ e.chan = s.build.adcChan
  · rw [processSample_of_valid hv]
    set v := condition s.cap.dcOffset s.cap.scaleShift e.raw
    have hopen : captureOpen (s.detected v) = captureOpen s := by
      unfold captureOpen
      exact congrArg (· || s.cap.capForce) hsquelch
    split
    · obtain ⟨buf, wc, len, he⟩ := put_frame v (s.detected v)
      rw [he]
      exact ⟨hopen, fun _ => rfl⟩
    · split
      · obtain ⟨-, he⟩ | ⟨-, -, he⟩ | ⟨-, -, he⟩ := boundary_cases { s.detected v with cap.pendingBoundary := true }
        · rw [he]
          exact ⟨hopen, fun _ => rfl⟩
        · rw [he]
          exact ⟨hopen, fun _ => rfl⟩
        · rw [he]
          exact ⟨hopen, nofun⟩
      · exact ⟨hopen, fun _ => rfl⟩
  · rw [processSample_of_skipped hv]
    exact ⟨rfl, fun _ => rfl⟩

/-- The loop test (R157): carry on, or take the closed squelch as a boundary and wait. -/
def loopTest (f : State) : State :=
  if captureOpen f then f
  else if (boundary f).cap.capState = .run then { boundary f with cap.capState := .wait } else boundary f

theorem capStep_of_run (h : s.cap.capState = .run) :
    let w := processSample (Memory.fragAt s.cap.frag s.cap.fragIdx) { s with cap.fragIdx := s.cap.fragIdx + 1 }
    capStep s =
      if w.cap.capState = .run ∧ s.cap.fragIdx + 1 = s.build.fragLen then
        loopTest { w with cap.fragFill := 0, cap.fragIdx := 0 }
      else w := by
  intro w
  have hidx := (processSample_worker (Memory.fragAt s.cap.frag s.cap.fragIdx) { s with cap.fragIdx := s.cap.fragIdx + 1 }).2
  have hbuild := (processSample_produces (Memory.fragAt s.cap.frag s.cap.fragIdx)
    { s with cap.fragIdx := s.cap.fragIdx + 1 }).1.build
  have hiff : (w.cap.capState = .run ∧ w.cap.fragIdx = w.build.fragLen) ↔
      (w.cap.capState = .run ∧ s.cap.fragIdx + 1 = s.build.fragLen) := and_congr_right fun hrun => by
    rw [hidx hrun, hbuild]
  rw [← if_congr hiff rfl rfl, capStep, if_neg (by rw [h]; nofun)]
  rfl

theorem step_of_capStep {rest : List Stimulus} (hag : s.env.agenda = .capStep :: rest) (hup : s.env.rstN = true) :
    step s = .next (runCapStep (s.begin rest)) := (step_of_cons hag).trans (whileUp_up (s := s.begin rest) hup _)

theorem runCapStep_of_disabled (h : ¬ capStepEnabled s = true) : runCapStep s = s := if_neg h

theorem runCapStep_of_enabled (h : capStepEnabled s = true) : runCapStep s = capStep s := if_pos h

theorem capStepDisabled (h : s.build.backend ≠ .afsk ∨ s.cap.capState = .idle ∨ s.cap.capState = .done ∨
      (s.cap.capState = .wait ∧ s.env.squelchOpen = false ∧ s.cap.capForce = false) ∨
      (s.cap.capState = .run ∧ s.cap.fragFill ≠ s.build.fragLen)) : ¬ capStepEnabled s = true := by
  rw [capStepEnabled_iff]
  obtain h | h | h | ⟨h, hq, hf⟩ | ⟨h, hfill⟩ := h <;> simp_all

/-- Settles O21: not enabled, leaving the wait, and the entry with the loop test after the last. -/
theorem capStepResult : Obligations.CapStepResult := by
  unfold Obligations.CapStepResult
  intro s rest hag hup u
  rw [step_of_capStep hag hup]
  refine ⟨fun h => ?disabled, fun hb hwait hopen => ?started, fun hb hrun hfull => ?entry⟩
  case disabled => exact congrArg Host.Outcome.next (runCapStep_of_disabled (s := u) (capStepDisabled h))
  case started =>
    have hen : capStepEnabled u = true := (capStepEnabled_iff u).2 ⟨hb, .inl ⟨hwait, hopen⟩⟩
    rw [show s.begin rest = u from rfl, runCapStep_of_enabled hen, capStep, if_pos hwait]
  case entry =>
    intro w f
    have hen : capStepEnabled u = true := (capStepEnabled_iff u).2 ⟨hb, .inr ⟨hrun, hfull⟩⟩
    have hstep : runCapStep (s.begin rest) =
        if w.cap.capState = .run ∧ s.cap.fragIdx + 1 = s.build.fragLen then loopTest f else w :=
      (runCapStep_of_enabled hen).trans (capStep_of_run hrun)
    have hopen : captureOpen f = captureOpen s := (processSample_worker _ { u with cap.fragIdx := s.cap.fragIdx + 1 }).1
    have hbuild : w.build = s.build := (processSample_produces _ { u with cap.fragIdx := s.cap.fragIdx + 1 }).1.build
    rw [hstep]
    clear_value w
    refine ⟨fun h => ?_, fun hw hlast => ⟨fun hop => ?_, fun hsq hforce => ?_⟩⟩
    · rw [if_neg (by rwa [not_and_or])]
    · rw [if_pos ⟨hw, hlast⟩, loopTest, hopen, if_pos (by simpa [captureOpen] using hop)]
    · have hclosed : ¬ captureOpen f = true := by
        rw [hopen]
        simp [captureOpen, hsq, hforce]
      rw [if_pos ⟨hw, hlast⟩, loopTest, if_neg hclosed]
      refine ⟨fun h₀ => ?_, fun h₀ hshort => ?_, fun h₀ hlong => ?_⟩
      · rw [boundary_of_none (s := f) h₀, if_pos (show f.cap.capState = .run from hw)]
      · rw [boundary_of_short (s := f) h₀ (by rwa [← hbuild] at hshort), if_pos (show f.cap.capState = .run from hw)]
      · rw [boundary_of_long (s := f) h₀ (by rwa [← hbuild] at hlong), if_neg nofun]

end Sys2Proof.Machine
end

section
/-! The modulator (43_modulator.md R181 to R187): the queue, the key-up, a tick, and the whole transmission. -/

namespace Sys2Proof.Machine

variable {s : State}

/-! ### Loading a bit -/

theorem loadNext_of_bits (h : 0 < s.tx.txBitsLeft) :
    loadNext s =
      { s with
        tx.txCurBit := s.tx.txByte.getLsbD 0
        tx.txByte := s.tx.txByte >>> 1
        tx.txBitsLeft := s.tx.txBitsLeft - 1
        tx.txCurValid := true } := by
  obtain ⟨-, he⟩ | ⟨h₀, -⟩ | ⟨h₀, -, -⟩ := loadNext_cases s
  · exact he
  · omega
  · omega

theorem loadNext_of_byte {b : Byte} {q : List Byte} (h : s.tx.txBitsLeft = 0) (hq : s.tx.txq = b :: q) :
    loadNext s =
      { s with
        tx.txq := q
        tx.txCurBit := b.getLsbD 0
        tx.txByte := b >>> 1
        tx.txBitsLeft := 7
        tx.txCurValid := true } := by
  obtain ⟨hpos, -⟩ | ⟨-, b', q', hq', he⟩ | ⟨-, hnil, -⟩ := loadNext_cases s
  · omega
  · cases hq.symm.trans hq'
    exact he
  · cases hq.symm.trans hnil

/-- With a current bit before as after, only the register and the bit change. -/
theorem loadNext_of_bits_valid (h : 0 < s.tx.txBitsLeft) (hv : s.tx.txCurValid = true) :
    loadNext s =
      { s with
        tx.txCurBit := s.tx.txByte.getLsbD 0
        tx.txByte := s.tx.txByte >>> 1
        tx.txBitsLeft := s.tx.txBitsLeft - 1 } := by
  rw [loadNext_of_bits h, ← hv]

theorem loadNext_of_byte_valid {b : Byte} {q : List Byte} (h : s.tx.txBitsLeft = 0) (hq : s.tx.txq = b :: q)
    (hv : s.tx.txCurValid = true) :
    loadNext s =
      { s with
        tx.txq := q
        tx.txCurBit := b.getLsbD 0
        tx.txByte := b >>> 1
        tx.txBitsLeft := 7 } := by
  rw [loadNext_of_byte h hq, ← hv]

theorem loadNext_of_none (h : s.tx.txBitsLeft = 0) (hq : s.tx.txq = []) : loadNext s = { s with tx.txCurValid := false } := by
  obtain ⟨hpos, -⟩ | ⟨-, b, q, hq', -⟩ | ⟨-, -, he⟩ := loadNext_cases s
  · omega
  · cases hq.symm.trans hq'
  · exact he

/-! ### TXQPUSH and TXSTART -/

/-- The transmitter keyed up (R183), before the first bit is loaded. -/
def State.keyedUp (s : State) : State :=
  { s with tx.ptt := true, tx.toneOn := true, tx.txState := .keyed, avail.txOff := false }

theorem exec_txstart_of_nothing (hb : s.build.backend = .afsk) (h : s.tx.txState = .keyed ∨ s.tx.txq = []) :
    exec .txstart s = .next (s.withRsp .ok 0) := by
  rw [exec, execTxstart, onAfsk_built hb]
  by_cases hk : s.tx.txState = .keyed
  · exact if_pos hk
  · rw [if_neg hk]
    exact if_pos (by rw [h.resolve_left hk]; rfl)

theorem exec_txstart (hb : s.build.backend = .afsk) (hidle : s.tx.txState = .idle) (hq : s.tx.txq ≠ []) :
    exec .txstart s = .next ((loadNext s.keyedUp).withRsp .ok 0) := by
  rw [exec, execTxstart, onAfsk_built hb, if_neg (by rw [hidle]; nofun), if_neg (by simpa using hq)]
  rfl

/-- Settles O26: append or refuse; nothing to start, or the first bit from the register or the queue. -/
theorem transmitQueueResult : Obligations.TransmitQueueResult := by
  unfold Obligations.TransmitQueueResult
  intro s v
  refine ⟨fun hb i hi => ?absent, fun hb => ⟨fun hfull => (onAfsk_built hb).trans (if_pos hfull),
    fun hroom => (onAfsk_built hb).trans (if_neg hroom), exec_txstart_of_nothing hb, fun b q hidle hq =>
      ⟨fun h₀ => ?byte, fun hpos => ?bits⟩⟩⟩
  case absent =>
    simp only [List.mem_cons, List.not_mem_nil, or_false] at hi
    obtain rfl | rfl := hi <;> exact onAfsk_absent hb
  case byte => rw [exec_txstart hb hidle (by rw [hq]; nofun), loadNext_of_byte (s := s.keyedUp) h₀ hq]; rfl
  case bits => rw [exec_txstart hb hidle (by rw [hq]; nofun), loadNext_of_bits (s := s.keyedUp) hpos]; rfl

/-! ### A tick -/

theorem Tone.toggle_eq (t : Tone) : t.toggle = if t = .mark then .space else .mark := by cases t <;> rfl

/-- The current bit on the tone: a 0 toggles it, a 1 holds it (R185). -/
def State.emitted (s : State) : State :=
  { s with tx.toneSel := if s.tx.txCurBit = true then s.tx.toneSel else if s.tx.toneSel = .mark then .space else .mark }

theorem tickTx_of_idle (h : s.tx.txState = .idle) : tickTx s = s := if_pos h

theorem tickTx_of_missing (h : s.tx.txState = .keyed) (hv : s.tx.txCurValid = false) : tickTx s = deKey s := by
  rw [tickTx, if_neg (by rw [h]; nofun), if_pos hv]

theorem tickTx_of_bit (h : s.tx.txState = .keyed) (hv : s.tx.txCurValid = true) : tickTx s = loadNext s.emitted := by
  rw [tickTx, if_neg (by rw [h]; nofun), if_neg (by simp [hv]), State.emitted, Tone.toggle_eq]
  cases s.tx.txCurBit <;> rfl

/-- Settles O27: idle, no bit, or a bit emitted and the next one from the register, from the queue or missing. -/
theorem tickTxResult : Obligations.TickTxResult := by
  unfold Obligations.TickTxResult
  intro s rest hag hup hb hrun hmode u tone
  rw [step_of_tick hag hup, runTick_of_tx (s := s.begin rest) hb hrun hmode]
  refine ⟨fun h => ?idle, fun h hv => ?missing, fun h hv => ?bit⟩
  case idle => rw [tickTx_of_idle (s := s.begin rest) h]; rfl
  case missing => rw [tickTx_of_missing (s := s.begin rest) h hv]; rfl
  case bit =>
    rw [tickTx_of_bit (s := s.begin rest) h hv]
    refine ⟨fun hpos => ?_, fun b q h₀ hq => ?_, fun h₀ hq => ?_⟩
    · rw [loadNext_of_bits_valid (s := (s.begin rest).emitted) hpos hv]
      rfl
    · rw [loadNext_of_byte_valid (s := (s.begin rest).emitted) h₀ hq hv]
      rfl
    · rw [loadNext_of_none (s := (s.begin rest).emitted) h₀ hq]
      rfl

/-! ### A transmission -/

/-- The bits after the current one: those left in the shift register, then those of the queue. -/
def State.upcoming (s : State) : List Bool := (List.range s.tx.txBitsLeft).map s.tx.txByte.getLsbD ++ bitStream s.tx.txq

/-- The bits still to be emitted. -/
def State.toSend (s : State) : List Bool := if s.tx.txCurValid = true then s.tx.txCurBit :: s.upcoming else []

theorem map_getLsbD_succ (b : Byte) (n : Nat) :
    (List.range (n + 1)).map b.getLsbD = b.getLsbD 0 :: (List.range n).map (b >>> 1).getLsbD := by
  rw [List.range_succ_eq_map, List.map_cons, List.map_map]
  congr 1
  refine List.map_congr_left fun j _ => ?_
  rw [Function.comp, BitVec.getLsbD_ushiftRight, Nat.add_comm]

theorem toSend_loadNext (s : State) : (loadNext s).toSend = s.upcoming := by
  obtain ⟨hpos, he⟩ | ⟨h₀, b, q, hq, he⟩ | ⟨h₀, hq, he⟩ := loadNext_cases s
  · obtain ⟨n, hn⟩ := Nat.exists_eq_add_one.2 hpos
    rw [he]
    simp [State.toSend, State.upcoming, hn, map_getLsbD_succ]
  · rw [he]
    have hbyte := map_getLsbD_succ b 7
    simp only [State.toSend, State.upcoming, h₀, hq, if_true, List.range_zero, List.map_nil, List.nil_append, bitStream,
      List.flatMap_cons, ← List.cons_append, ← hbyte]
  · rw [he]
    simp [State.toSend, State.upcoming, h₀, hq, bitStream]

/-- Keyed up with these bits still to be emitted, on this tone. -/
structure Sending (s : State) (bits : List Bool) (tone : Tone) : Prop where
  keyed   : s.tx.txState = .keyed
  ptt     : s.tx.ptt = true
  toneSel : s.tx.toneSel = tone
  toSend  : s.toSend = bits
  drained : s.tx.txCurValid = false → s.tx.txq = []

theorem sending_loadNext (hk : s.tx.txState = .keyed) (hp : s.tx.ptt = true) : Sending (loadNext s) s.upcoming s.tx.toneSel := by
  have hsend := toSend_loadNext s
  obtain ⟨-, he⟩ | ⟨-, b, q, -, he⟩ | ⟨-, hq, he⟩ := loadNext_cases s <;> rw [he] at hsend ⊢
  · exact ⟨hk, hp, rfl, hsend, nofun⟩
  · exact ⟨hk, hp, rfl, hsend, nofun⟩
  · exact ⟨hk, hp, rfl, hsend, fun _ => hq⟩

theorem Sending.tick {b : Bool} {bits : List Bool} {tone : Tone} (h : Sending s (b :: bits) tone) :
    Sending (tickTx s) bits (toneAfter tone [b]) := by
  have hsend := h.toSend
  unfold State.toSend at hsend
  split at hsend
  · rename_i hv
    obtain ⟨hbit, hup⟩ := List.cons.inj hsend
    rw [tickTx_of_bit h.keyed hv]
    have hload := sending_loadNext (s := s.emitted) h.keyed h.ptt
    have htone : s.emitted.tx.toneSel = toneAfter tone [b] := by
      rw [← h.toneSel, ← hbit]
      rfl
    rwa [htone, show s.emitted.upcoming = bits from hup] at hload
  · cases hsend

theorem Sending.ticks {bits : List Bool} {tone : Tone} (h : Sending s bits tone) {k : Nat} (hk : k ≤ bits.length) :
    Sending (tickTx^[k] s) (bits.drop k) (toneAfter tone (bits.take k)) := by
  induction k generalizing s bits tone with
  | zero => exact h
  | succ k ih =>
    cases bits with
    | nil => cases hk
    | cons b bits => exact ih h.tick (Nat.le_of_succ_le_succ hk)

/-- The tick after the last bit (R187). -/
theorem Sending.ends {tone : Tone} (h : Sending s [] tone) :
    (tickTx s).tx.txState = .idle ∧ (tickTx s).tx.ptt = false ∧ (tickTx s).tx.toneOn = false ∧ (tickTx s).avail.txOff = true ∧
      (tickTx s).tx.txq = [] ∧ (tickTx s).events.evt.getLsbD 2 = true ∧ (tickTx s).tx.toneSel = tone := by
  have hv : s.tx.txCurValid = false := by
    have hsend := h.toSend
    unfold State.toSend at hsend
    split at hsend
    · cases hsend
    · exact eq_false_of_ne_true ‹_›
  rw [tickTx_of_missing h.keyed hv]
  refine ⟨rfl, rfl, rfl, rfl, h.drained hv, ?_, h.toneSel⟩
  simp [deKey, raiseEvt, EvtFlag.mask, EvtFlag.bit]

theorem bitStream_length (bs : List Byte) : (bitStream bs).length = 8 * bs.length := by
  simp [bitStream, List.length_flatMap, Nat.mul_comm]

/-- Settles O28: at key-up the bits to send are the queue's; each tick emits one, and the tick after the last de-keys. -/
theorem transmissionEmitsBits : Obligations.TransmissionEmitsBits := by
  unfold Obligations.TransmissionEmitsBits
  intro s hb hidle h₀ hq
  have hstart : Sending ((loadNext s.keyedUp).withRsp .ok 0) (bitStream s.tx.txq) s.tx.toneSel := by
    have hload := sending_loadNext (s := s.keyedUp) rfl rfl
    have hup : s.keyedUp.upcoming = bitStream s.tx.txq := by
      simp [State.upcoming, State.keyedUp, h₀]
    rw [hup] at hload
    exact { hload with }
  refine ⟨_, exec_txstart hb hidle hq, fun k hk => ?_, ?_⟩
  · have hsent := hstart.ticks (k := k) (by rwa [bitStream_length])
    exact ⟨hsent.keyed, hsent.ptt, hsent.toneSel⟩
  · have hsent := hstart.ticks (Nat.le_refl _)
    rw [List.drop_length, List.take_length, bitStream_length] at hsent
    rw [Function.iterate_succ_apply']
    exact hsent.ends

end Sys2Proof.Machine
end

section
/-! The codec operations and the byte buffers (44_ax25_codec.md R201 to R225, 45_lora_primitives.md R250 to R252): each operation's
result over the registers of the codec, with the strings and the header in the terms of Safety.lean. -/

namespace Sys2Proof.Machine

variable {s : State}

/-! ### Byte buffers -/

theorem exec_axbput_full (h : s.codec.axbLen = s.build.axbCap) (v : Byte) : exec (.axbput v) s = .next (s.withRsp .full 0) := by
  rw [exec, execAxbput, axbEmit, if_pos h]
  rfl

theorem exec_axbput_room (h : s.codec.axbLen ≠ s.build.axbCap) (v : Byte) :
    exec (.axbput v) s =
      .next (({ s with
        codec.axb := Memory.write s.codec.axb s.codec.axbLen v, codec.axbLen := s.codec.axbLen + 1 } : State).withRsp .ok 0) := by
  rw [exec, execAxbput, axbEmit, if_neg h]
  rfl

/-- Settles O29: each buffer's clear, append and read, by the test each makes. -/
theorem byteBufferResult : Obligations.ByteBufferResult := by
  unfold Obligations.ByteBufferResult
  refine fun s v => ⟨rfl, rfl, fun h => if_pos h, fun h => ⟨_, stored_write .strb _ _ v, if_neg h⟩, fun h => exec_axbput_full h v,
    fun h => ⟨_, stored_write .axb _ _ v, exec_axbput_room h v⟩, fun h => if_pos h, fun h => if_neg (Nat.not_le.2 h),
    fun h => if_pos h, fun h => if_neg (Nat.not_le.2 h), fun hb => ⟨onLora_built hb, fun h => ?_, fun h => ?_, fun h => ?_, fun h => ?_⟩,
    fun hb i hi => ?_⟩
  · exact (onLora_built hb).trans (if_pos h)
  · exact ⟨_, stored_write .lpb _ _ v, (onLora_built hb).trans (if_neg h)⟩
  · exact (onLora_built hb).trans (if_pos h)
  · exact (onLora_built hb).trans (if_neg (Nat.not_le.2 h))
  · simp only [List.mem_cons, List.not_mem_nil, or_false] at hi
    obtain rfl | rfl | rfl := hi <;> exact onLora_absent hb

/-! ### Address records -/

theorem addrAt_none {idx : Byte} (h : 8 < idx.toNat) (c : Codec) : c.addrAt? idx.toNat = none :=
  Vector.getElem?_eq_none h

theorem exec_at_none {i : Instr} {n : Nat} {k : Ax25Address → Result}
    (hi : exec i s = match s.codec.addrAt? n with | none => s.refuse .range | some A => k A) (h : s.codec.addrAt? n = none) :
    exec i s = .next (s.withRsp .range 0) := by
  rw [hi, h]
  rfl

theorem ssid_flags_word (a : BitVec 4) (f : Byte) : a.setWidth 32 <<< 8 ||| f.setWidth 32 = (a ++ f).setWidth 32 := by
  ext k hk
  grind

theorem low_nibble (v : Byte) : v.extractLsb' 0 4 = v.setWidth 4 := by
  ext k hk
  grind

/-- Settles O30: refused above 8, and else the one field. -/
theorem addressFieldResult : Obligations.AddressFieldResult := by
  unfold Obligations.AddressFieldResult
  refine fun s idx v => ⟨fun h i hi => ?range, fun A hA => ⟨?axrd, ?axssid, ?axflg⟩, fun _ => rfl, fun _ _ => rfl⟩
  case range =>
    simp only [List.mem_cons, List.not_mem_nil, or_false] at hi
    obtain rfl | rfl | rfl := hi <;> exact exec_at_none rfl (addrAt_none h _)
  case axrd =>
    rw [exec, execAxrd, Codec.addrAt?, hA, ← ssid_flags_word]
    rfl
  case axssid =>
    rw [exec, execAxssid, Codec.addrAt?, hA, ← low_nibble]
    rfl
  case axflg =>
    rw [exec, execAxflg, Codec.addrAt?, hA]
    rfl

/-! ### Strings to addresses and back -/

theorem strBytes_eq_nil (s : State) : strBytes s = [] ↔ s.codec.strLen = 0 := by
  rw [← List.length_eq_zero_iff, strBytes, Memory.bytes_length]

theorem pathItems_strBytes (s : State) :
    pathItems (strBytes s) =
      if s.codec.strLen = 0 then []
      else ((Memory.bytes .strb s.codec.strb 0 s.codec.strLen).splitOn 0x2C).take 7 := by
  rw [pathItems, splitCommas_eq]
  exact if_congr (strBytes_eq_nil s) rfl rfl

theorem pathItems_length_le (t : List Byte) : (pathItems t).length ≤ 7 := by
  unfold pathItems
  split
  · exact Nat.zero_le 7
  · exact List.length_take_le _ _

/-- Settles O32: one record from the whole string, or up to seven from its items. -/
theorem stringToAddressResult : Obligations.StringToAddressResult := by
  unfold Obligations.StringToAddressResult
  refine fun s => ⟨fun idx h => if_pos h, fun idx h => if_neg (Nat.not_lt.2 h), ?_⟩
  rw [← pathItems_strBytes]
  have hlen := pathItems_length_le (strBytes s)
  obtain ⟨addr, hkept, hparsed, he⟩ := storePath_spec (pathItems (strBytes s)) 2 s (by omega)
  refine ⟨addr, hkept, hparsed, ?_⟩
  rw [exec, execS2d, he]
  rfl

/-- Settles O33: the string of a record, or of the path. -/
theorem addressToStringResult : Obligations.AddressToStringResult := by
  unfold Obligations.AddressToStringResult
  refine fun s => ⟨fun idx h => exec_at_none rfl (addrAt_none h _), fun idx A hA => ⟨_, stored_writeFrom .strb _ 0 _, ?_⟩, fun short =>
    ⟨_, stored_writeFrom .strb _ 0 _, ?_⟩⟩
  · rw [exec, execA2s, Codec.addrAt?, hA, ← formatAddr_eq]
    rfl
  · rw [← joinCommas_eq]
    rfl

/-! ### Abbreviated digipeaters -/

theorem isWide_iff (A : Ax25Address) :
    isWide A = true ↔ ∃ d : Byte, 0x30 ≤ d ∧ d ≤ 0x39 ∧ A.call = ⟨0x57, 0x49, 0x44, 0x45, d, 0x20⟩ := by
  obtain ⟨⟨c0, c1, c2, c3, c4, c5⟩, ssid, flags⟩ := A
  simp only [isWide, Bool.and_eq_true, beq_iff_eq, isDigitChar_iff, Callsign.mk.injEq]
  constructor
  · rintro ⟨⟨⟨⟨⟨h0, h1⟩, h2⟩, h3⟩, hlo, hhi⟩, h5⟩
    exact ⟨c4, hlo, hhi, h0, h1, h2, h3, rfl, h5⟩
  · rintro ⟨d, hlo, hhi, h0, h1, h2, h3, rfl, h5⟩
    exact ⟨⟨⟨⟨⟨h0, h1⟩, h2⟩, h3⟩, hlo, hhi⟩, h5⟩

/-- Settles O34: abbreviated exactly for a `WIDE` callsign, and then with the suffix but in three cases. -/
theorem digiAbbreviation : Obligations.DigiAbbreviation := by
  unfold Obligations.DigiAbbreviation
  refine fun A => ⟨formatAddr_eq A, fun hno => ?full, fun d hlo hhi hcall => ?short⟩
  case full =>
    have hwide : ¬ isWide A = true := by
      rw [isWide_iff]
      exact fun ⟨d, hlo, hhi, hcall⟩ => hno d hlo hhi hcall
    rw [formatDigi, if_neg (by simpa using hwide), formatAddr_eq]
  case short =>
    have hwide : isWide A = true := (isWide_iff A).2 ⟨d, hlo, hhi, hcall⟩
    rw [formatDigi, if_pos (by simpa using hwide), hcall, ssidSuffix_eq]
    dsimp only
    by_cases hown : (d = 0x31 ∧ A.ssid = 1) ∨ (d = 0x32 ∧ A.ssid = 2)
    · rw [if_pos hown, if_pos (by tauto), List.append_nil]
    · rw [if_neg hown]
      congr 1
      exact if_congr (by tauto) rfl rfl

/-! ### Headers -/

theorem flagDigi_eq : ∀ f : Byte, f &&& 0x80 = BitVec.ofBool (f.getLsbD 7) ++ (0 : BitVec 7) := by decide

theorem byte6_fields : ∀ (digi last : Bool) (ssid : BitVec 4),
    (0x60 : Byte) ||| ssid.setWidth 8 <<< 1 ||| (BitVec.ofBool digi ++ (0 : BitVec 7)) ||| (if last then 0x01 else 0x00) =
      (BitVec.ofBool digi ++ (0b11 : BitVec 2) ++ ssid ++ BitVec.ofBool last : Byte) := by decide

theorem encodeAddr_eq (A : Ax25Address) (last : Bool) : encodeAddr A last = wireAddress A last := by
  have hbyte : wireByte6 A last = BitVec.ofBool (A.flags.getLsbD 7) ++ (0b11 : BitVec 2) ++ A.ssid ++ BitVec.ofBool last := by
    rw [wireByte6, flagDigi_eq]
    exact byte6_fields _ _ _
  rw [encodeAddr, hbyte]
  rfl

theorem headerBytes_eq_wireHeader (s : State) : headerBytes s = wireHeader s.codec := by
  have hlast (n k : Nat) : (k + 1 == 2 + n) = (k == 1 + n) := by
    rw [Bool.eq_iff_iff, beq_iff_eq, beq_iff_eq]
    omega
  rw [headerBytes_eq, wirePath, framePath_length, wireHeader, List.append_assoc]
  simp only [encodeAddr_eq, hlast]
  rfl

/-- Settles O35: the header byte by byte, as far as it fits. -/
theorem axencResult : Obligations.AxencResult := by
  unfold Obligations.AxencResult
  intro s hcap h n
  have hemit := axbEmitAll_spec (headerBytes s) s hcap
  rw [headerBytes_eq_wireHeader] at hemit
  refine ⟨_, stored_writeFrom .axb _ _ _, ?_⟩
  rw [exec, execAxenc, headerBytes_eq_wireHeader, hemit]
  simp only [decide_eq_true_eq, Nat.add_sub_cancel_left]
  rfl

/-- Settles O36: what AXDEC finds, in the bytes it takes. -/
theorem axdecResult : Obligations.AxdecResult := by
  unfold Obligations.AxdecResult
  intro s hrd
  obtain ⟨count, addr, hd, he⟩ := execAxdec_spec hrd
  refine ⟨count, addr, hd.count_le, fun k hk => ?_, ?_, hd.taken, hd.kept, ?_⟩
  · rw [← takenAddress_flags]
    exact hd.unflagged k hk
  · rw [← takenAddress_flags]
    exact hd.ended
  · intro ctrl
    have hpid : 15 + 7 * count = 14 + 7 * count + 1 := by omega
    have hindex : s.codec.axbRd + 15 + 7 * count = s.codec.axbRd + (14 + 7 * count) + 1 := by omega
    rw [he, hpid, hindex]
    rfl

end Sys2Proof.Machine
end

section
/-! The bus over whole steps (45_lora_primitives.md R241, R245, R246, R259): every trace is bracketed, and the work of one command or
read is bounded. -/

namespace Sys2Proof.Machine

variable {s : State}

/-! ### Brackets -/

theorem exec_idle (i : Instr) (h : Idle s) : Leaves (exec i s) Idle := by
  by_cases hreset : i = .sreset
  · subst hreset
    exact .next ⟨h.1, rfl⟩
  · by_cases hclr : ∃ m, i = .evclr m
    · obtain ⟨m, rfl⟩ := hclr
      exact .next h
    · by_cases hmode : ∃ m, i = .setmode m
      · obtain ⟨m, rfl⟩ := hmode
        exact .onAfsk (fun _ => h) fun _ => .respond h
      · exact fun t ht => (exec_quiet hreset (fun m hm => hclr ⟨m, hm⟩) (fun m hm => hmode ⟨m, hm⟩) s t ht).idle h

theorem runStimulus_idle {e : Stimulus} (he : ∀ w k, e ≠ .resetDuring w k) (h : Idle s) : Leaves (runStimulus e s) Idle := by
  cases e with
  | command w => exact .whileUp h (runWord_leaves (fun _ => h) fun i _ => exec_idle i h)
  | tick => exact .whileUp h (.next ((runTick_leaves s).1.idle h))
  | capStep => exact .whileUp h (.next ((runCapStep_leaves s).2.idle h))
  | squelchEdge v => exact .whileUp (P := Idle) h (.next ((squelchEdge_still v { s with env.squelchOpen := v }).idle h))
  | powerDown => exact .whileUp h (.next ((runPowerDown_still s).idle h))
  | resetLow => exact .next ⟨h.1, rfl⟩
  | resetHigh =>
    refine .next ?_
    unfold resetHigh
    split
    · exact h
    · exact ⟨h.1, rfl⟩
  | resetDuring w k => exact absurd rfl (he w k)
  | squelchPin v | allocPin v => exact .next h

/-- Settles O56: a step starts with an empty trace, and whatever is offered leaves the bus idle. -/
theorem busTraceIsBracketed : Obligations.BusTraceIsBracketed := by
  unfold Obligations.BusTraceIsBracketed
  intro s t hstep hcs hcut
  have hbegin (rest : List Stimulus) : Idle (s.begin rest) := ⟨rfl, hcs⟩
  cases hag : s.env.agenda with
  | nil =>
    rw [step_of_nil hag] at hstep
    cases hstep
    exact hbegin []
  | cons e rest =>
    rw [step_of_cons hag] at hstep
    exact runStimulus_idle (fun w k he => hcut w k rest (he ▸ hag)) (hbegin rest) t hstep

/-! ### Bounds -/

def BusEvent.isPoll (e : BusEvent) : Bool :=
  match e with
  | .poll _ => true
  | _ => false

def BusEvent.isXfer (e : BusEvent) : Bool :=
  match e with
  | .xfer _ _ => true
  | _ => false

/-- At most `p` polls and `x` transfers. -/
def BusBound (p x : Nat) (tr : List BusEvent) : Prop := tr.countP BusEvent.isPoll ≤ p ∧ tr.countP BusEvent.isXfer ≤ x

section
variable {p x p' x' T : Nat} {tr tr' : List BusEvent}

theorem BusBound.append (h : BusBound p x tr) (h' : BusBound p' x' tr') : BusBound (p + p') (x + x') (tr ++ tr') := by
  unfold BusBound at *
  rw [List.countP_append, List.countP_append]
  omega

theorem BusBound.mono (h : BusBound p x tr) (hp : p ≤ p') (hx : x ≤ x') : BusBound p' x' tr :=
  ⟨h.1.trans hp, h.2.trans hx⟩

theorem BusyWait.bound {idle : Bool} (h : BusyWait T idle tr) : BusBound T 0 tr := by
  have polls (n : Nat) : BusBound n 0 (List.replicate n (.poll true)) := by
    simp [BusBound, List.countP_replicate, BusEvent.isPoll, BusEvent.isXfer]
  unfold BusyWait at h
  split at h
  · obtain ⟨j, hj, rfl⟩ := h
    have hlast : BusBound 1 0 [.poll false] := ⟨Nat.le_refl 1, Nat.le_refl 0⟩
    exact ((polls j).append hlast).mono hj (Nat.le_refl 0)
  · exact h ▸ polls T

theorem PayloadTrace.bound {c : ChipTable} {pay : List Byte} {st : LoraOutcome} (h : PayloadTrace c pay tr st) :
    BusBound 0 pay.length tr := by
  induction h with
  | done => exact ⟨Nat.le_refl 0, Nat.le_refl 0⟩
  | bad _ => exact ⟨Nat.le_refl 0, Nat.succ_le_succ (Nat.zero_le _)⟩
  | @good o i pay tr st _ _ ih =>
    have hone : BusBound 0 1 [.xfer o i] := ⟨Nat.le_refl 0, Nat.le_refl 1⟩
    exact (hone.append ih).mono (Nat.le_refl 0) (Nat.le_of_eq (Nat.add_comm 1 pay.length))

theorem AttemptTrace.bound {c : ChipTable} {w : Nat} {opc : Byte} {pay : List Byte} {st : LoraOutcome}
    (h : AttemptTrace c T opc pay tr st w) : BusBound (2 * T) (1 + pay.length) tr := by
  obtain ⟨h₁, ht, h₂⟩ := h
  have hopc (r : Byte) : BusBound 0 1 [.select, .xfer opc r] := ⟨Nat.le_refl 0, Nat.le_refl 1⟩
  have hend : BusBound 0 0 [.deselect] := ⟨Nat.le_refl 0, Nat.le_refl 0⟩
  exact ((((h₁.bound.append (hopc _)).append ht.bound).append hend).append h₂.bound).mono (by omega) (by omega)

theorem CommandTrace.bound {c : ChipTable} {left k w : Nat} {opc : Byte} {pay : List Byte} {st : LoraOutcome}
    (h : CommandTrace c T opc pay left tr st k w) : BusBound (left * (2 * T)) (left * (1 + pay.length)) tr := by
  induction h with
  | success ha => exact ha.bound.mono (Nat.le_mul_of_pos_left _ (Nat.succ_pos _)) (Nat.le_mul_of_pos_left _ (Nat.succ_pos _))
  | abandoned ha _ => exact ha.bound.mono (Nat.le_of_eq (Nat.one_mul _).symm) (Nat.le_of_eq (Nat.one_mul _).symm)
  | again ha _ _ ih =>
    exact (ha.bound.append ih).mono (by rw [Nat.add_comm, ← Nat.succ_mul]) (by rw [Nat.add_comm, ← Nat.succ_mul])

theorem Drives.bound {outs : List Byte} (h : Drives outs tr) : BusBound 0 outs.length tr := by
  obtain ⟨ins, hl, rfl⟩ := h
  rw [← List.map_uncurry_zip_eq_zipWith]
  simp [BusBound, List.countP_map, Function.comp_def, Function.uncurry, BusEvent.isPoll, BusEvent.isXfer, List.length_zip, hl]

theorem bound_of_read {b : Build} {opc : Byte} {pre data : List Byte} {y : Tally} (h : BusTrace b T [.read opc pre data] tr y) :
    BusBound (2 * T) (1 + pre.length + b.chip.readSkip + data.length) tr := by
  obtain _ | _ | @⟨_, _, _, _, w₁, tr₁, w₂, _, _, _, _, h₁, hd, h₂, hnil⟩ := h
  cases hnil
  have hopen : BusBound 0 0 [.select] := ⟨Nat.le_refl 0, Nat.le_refl 0⟩
  have hclose : BusBound 0 0 [.deselect] := ⟨Nat.le_refl 0, Nat.le_refl 0⟩
  have hdata : BusBound 0 data.length (data.map (BusEvent.xfer b.chip.nopByte)) := by
    simp [BusBound, List.countP_map, Function.comp_def, BusEvent.isPoll, BusEvent.isXfer]
  have hdriven := hd.bound
  rw [List.append_nil]
  rw [List.length_append, List.length_cons, List.length_replicate] at hdriven
  exact (((((h₁.bound.append hopen).append hdriven).append hdata).append hclose).append h₂.bound).mono (by omega) (by omega)

end

theorem writeCommand_bound (opc : Byte) (pay : List Byte) (htr : s.out.trace = []) (hm : 1 ≤ s.build.maxAttempts) :
    BusBound (s.build.maxAttempts * (2 * s.lora.busyTimeout.toNat)) (s.build.maxAttempts * (1 + pay.length))
      (writeCommand opc pay s).out.trace := by
  obtain ⟨tr, st, k, w, e, hc, -, he⟩ := writeCommand_spec opc pay (s.withCs false) rfl hm
  rw [← writeCommand_withCs opc pay false s, he, State.afterBus_trace, show (s.withCs false).out.trace = [] from htr]
  exact hc.bound

theorem readTransaction_bound (opc : Byte) (pre : List Byte) (n : Nat) (htr : s.out.trace = []) :
    BusBound (2 * s.lora.busyTimeout.toNat) (1 + pre.length + s.build.chip.readSkip + n) (readTransaction opc pre n s).2.out.trace := by
  obtain ⟨hl, tr, y, e, hb, -, he⟩ := doesBus_read opc pre n (s.withCs false) rfl
  rw [← readTransaction_withCs opc pre n false s, he, State.afterBus_trace, show (s.withCs false).out.trace = [] from htr]
  have hbound := bound_of_read hb
  rwa [hl] at hbound

/-- Settles O44: a refused operation does nothing on the bus; a command is bounded by its attempts, a read by its bytes. -/
theorem busWorkBounded : Obligations.BusWorkBounded := by
  unfold Obligations.BusWorkBounded
  intro s t opc p n hb htr hm polls transfers
  have counted {a x : Nat} (h : BusBound a x t.out.trace) : polls ≤ a ∧ transfers ≤ x := by
    unfold BusBound at h
    rwa [List.countP_eq_length_filter, List.countP_eq_length_filter] at h
  have nothing {a x : Nat} (ht : t.out.trace = []) : polls ≤ a ∧ transfers ≤ x :=
    counted (by rw [ht]; exact ⟨Nat.zero_le a, Nat.zero_le x⟩)
  refine ⟨fun h => ?_, fun h => ?_⟩
  · by_cases hn : s.lora.lpbLen < n.toNat
    · rw [exec, execLwcmd, onLora_built hb, if_pos hn] at h
      cases h
      exact nothing htr
    · rw [exec, execLwcmd, onLora_built hb, if_neg hn] at h
      cases h
      have hbound := writeCommand_bound opc (lpbBytes s n.toNat) htr hm
      rw [lpbBytes, Memory.bytes_length] at hbound
      exact counted hbound
  · by_cases hp : s.lora.lpbLen < p.toNat
    · rw [exec, execLrcmd, onLora_built hb, if_pos hp] at h
      cases h
      exact nothing htr
    · rw [exec, execLrcmd, onLora_built hb, if_neg hp] at h
      cases h
      have hbound := readTransaction_bound opc (lpbBytes s p.toNat) n.toNat htr
      rw [lpbBytes, Memory.bytes_length] at hbound
      exact counted hbound

end Sys2Proof.Machine
end

section
/-! The status codes (60_exceptions.md R331, R341): what each operation may answer, that a refusal changes nothing, and when `ST_BUSY`,
`ST_EMPTY` and `ST_FULL` are answered. -/

namespace Sys2Proof.Machine

variable {s t : State} {i : Instr} {st : Status} {k k' : Result}

/-! ### Causes -/

/-- The host offers itself as the ring's producer while the capture worker is it. -/
def BusyCause (i : Instr) (s : State) : Prop :=
  (i = .rbnext ∨ (∃ v, i = .rbput v) ∨ i = .rblast ∨ ∃ f, i = .capstart f) ∧ s.build.backend = .afsk ∧
    s.ring.rbEnabled = true ∧ (s.cap.capState = .wait ∨ s.cap.capState = .run)

/-- A read of a byte buffer with nothing left. -/
def EmptyCause (i : Instr) (s : State) : Prop :=
  (i = .strget ∧ s.codec.strLen ≤ s.codec.strRd) ∨ (i = .axbget ∧ s.codec.axbLen ≤ s.codec.axbRd)

/-- A header, or an append to a full buffer or queue. -/
def FullCause (i : Instr) (s : State) : Prop :=
  i = .axenc ∨ ((∃ v, i = .txqpush v) ∧ s.tx.txq.length = s.build.txqDepth) ∨
    ((∃ v, i = .strput v) ∧ s.codec.strLen = s.build.strCap) ∨ ((∃ v, i = .axbput v) ∧ s.codec.axbLen = s.build.axbCap) ∨
    ((∃ v, i = .lpbput v) ∧ s.lora.lpbLen = s.build.lpbCap)

/-- The status has the cause R331 gives it. -/
structure StatusFits (i : Instr) (s : State) (st : Status) : Prop where
  busy  : st = .busy ↔ BusyCause i s
  empty : st = .empty ↔ EmptyCause i s
  full  : st = .full → FullCause i s

/-- What an operation answers: `ST_OK`, a refusal that leaves the state alone, or AXENC's bytes that fitted. -/
inductive Answers (i : Instr) (s t : State) : Prop where
  | ok (v : Word) : t.out.rsp = some ⟨.ok, v⟩ → StatusFits i s .ok → Answers i s t
  | refused (st : Status) : t = s.withRsp st 0 → StatusFits i s st → Answers i s t
  | filled (v : Word) : i = .axenc → t = { s with codec.axb := t.codec.axb, codec.axbLen := t.codec.axbLen, out.rsp := some ⟨.full, v⟩ } →
      StatusFits i s .full → Answers i s t

/-! ### Operations that are never busy, empty or full -/

/-- The operations that have a status of their own. -/
def hasOwnStatus (i : Instr) : Bool :=
  match i with
  | .rbnext | .rbput _ | .rblast | .capstart _ | .strget | .axbget | .axenc | .txqpush _ | .strput _ | .axbput _ | .lpbput _ => true
  | _ => false

theorem StatusFits.of_plain (hi : hasOwnStatus i = false) (hb : st ≠ .busy) (he : st ≠ .empty) (hf : st ≠ .full) :
    StatusFits i s st where
  busy := iff_of_false hb (by rintro ⟨rfl | ⟨v, rfl⟩ | rfl | ⟨f, rfl⟩, -⟩ <;> cases hi)
  empty := iff_of_false he (by rintro (⟨rfl, -⟩ | ⟨rfl, -⟩) <;> cases hi)
  full h := absurd h hf

/-- `ST_OK`, or a refusal that any operation can give. -/
def Plain (s t : State) : Prop :=
  (∃ v, t.out.rsp = some ⟨.ok, v⟩) ∨ t = s.withRsp .absent 0 ∨ t = s.withRsp .disabled 0 ∨ t = s.withRsp .range 0

namespace Plain

theorem ok {u : State} {v : Word} : Leaves (u.respond .ok v) (Plain s) := .next (.inl ⟨v, rfl⟩)

theorem absent : Leaves (s.refuse .absent) (Plain s) := .next (.inr (.inl rfl))

theorem disabled : Leaves (s.refuse .disabled) (Plain s) := .next (.inr (.inr (.inl rfl)))

theorem range : Leaves (s.refuse .range) (Plain s) := .next (.inr (.inr (.inr rfl)))

theorem ite {c : Prop} [Decidable c] (h : Leaves k (Plain s)) (h' : Leaves k' (Plain s)) :
    Leaves (if c then k else k') (Plain s) := .ite (fun _ => h) fun _ => h'

theorem onAfsk (h : Leaves k (Plain s)) : Leaves (onAfsk s k) (Plain s) := ite h absent

theorem onLora (h : Leaves k (Plain s)) : Leaves (onLora s k) (Plain s) := ite h absent

theorem onRing (h : Leaves k (Plain s)) : Leaves (onRing s k) (Plain s) := onAfsk (ite h disabled)

end Plain

theorem execRdreg_plain (idx : Byte) (s : State) : Leaves (execRdreg idx s) (Plain s) := by
  unfold execRdreg
  cases Reg.ofIndex idx with
  | none => exact Plain.range
  | some r => exact Plain.ite Plain.ok Plain.absent

theorem execWrreg_plain (idx : Byte) (v : Word) (s : State) : Leaves (execWrreg idx v s) (Plain s) := by
  unfold execWrreg
  cases Reg.ofIndex idx with
  | none => exact Plain.range
  | some r =>
    refine Plain.ite ?_ Plain.absent
    cases r.writeMask? with
    | none => exact Plain.range
    | some m => exact Plain.ite Plain.ok Plain.range

theorem addrAt_plain (s : State) (A? : Option Ax25Address) {k : Ax25Address → Result} (hk : ∀ A, Leaves (k A) (Plain s)) :
    Leaves (match A? with | none => s.refuse .range | some A => k A) (Plain s) := by
  cases A? with
  | none => exact Plain.range
  | some A => exact hk A

theorem pollAnswer_plain (irq : Half) (m s : State) : Leaves (pollAnswer irq m) (Plain s) := by
  unfold pollAnswer
  cases m.lora.loraMode with
  | standby => exact Plain.ok
  | rx => exact Plain.ite Plain.ok (Plain.ite Plain.ok Plain.ok)
  | tx => exact Plain.ite Plain.ok Plain.ok

theorem exec_plain (hi : hasOwnStatus i = false) (s : State) : Leaves (exec i s) (Plain s) := by
  cases i with
  | rbnext | rbput | rblast | capstart | strget | axbget | axenc | txqpush | strput | axbput | lpbput => cases hi
  | nop | evclr | sreset | require | strclr | axbclr | axndigi | axctl | axdec | s2d | d2s => exact Plain.ok
  | release => exact Plain.ite Plain.ok Plain.ok
  | rdreg idx => exact execRdreg_plain idx s
  | wrreg idx v => exact execWrreg_plain idx v s
  | setmode | clkstop | ptt => exact Plain.onAfsk Plain.ok
  | txstart => exact Plain.onAfsk (Plain.ite Plain.ok (Plain.ite Plain.ok Plain.ok))
  | rbget | rbeof | rbreset | capstop => exact Plain.onRing Plain.ok
  | s2a => exact Plain.ite Plain.range Plain.ok
  | a2s | axssid | axflg | axrd => exact addrAt_plain s _ fun _ => Plain.ok
  | lpbclr => exact Plain.onLora Plain.ok
  | lpbrd | lwcmd | lwbuf | lsend | lrcmd | lwait => exact Plain.onLora (Plain.ite Plain.range Plain.ok)
  | lwreg | lrreg | lrbuf | lsetrx | lsetfreq | lsetpwr | lrssi | lpktst => exact Plain.onLora Plain.ok
  | lrecv => exact Plain.onLora (Plain.ite Plain.ok (Plain.ite Plain.ok Plain.ok))
  | lpoll => exact Plain.onLora (pollAnswer_plain _ _ s)

theorem Plain.answers (h : Plain s t) (hi : hasOwnStatus i = false) : Answers i s t := by
  obtain ⟨v, hv⟩ | ht | ht | ht := h
  · exact .ok v hv (.of_plain hi nofun nofun nofun)
  · exact .refused _ ht (.of_plain hi nofun nofun nofun)
  · exact .refused _ ht (.of_plain hi nofun nofun nofun)
  · exact .refused _ ht (.of_plain hi nofun nofun nofun)

/-! ### Operations with a status of their own -/

/-- An operation that refuses with one status exactly on its cause, and else answers `ST_OK`. -/
theorem answers_of_test {c : Prop} [Decidable c] {u : State} {v : Word} (hyes : c → StatusFits i s st) (hno : ¬ c → StatusFits i s .ok) :
    Leaves (if c then s.refuse st else u.respond .ok v) (Answers i s) :=
  .ite (fun h => .next (.refused st rfl (hyes h))) fun h => .next (.ok v rfl (hno h))

theorem producer_answers {u : State} {v : Word}
    (hi : i = .rbnext ∨ (∃ v, i = .rbput v) ∨ i = .rblast ∨ ∃ f, i = .capstart f)
    (he : exec i s = onRing s (if s.workerActive then s.refuse .busy else u.respond .ok v)) : Leaves (exec i s) (Answers i s) := by
  have hempty : ¬ EmptyCause i s := by
    rintro (⟨rfl, -⟩ | ⟨rfl, -⟩) <;> simp at hi
  have fits {st : Status} (hst : st ≠ .empty) (hst' : st ≠ .full) (hb : st = .busy ↔ BusyCause i s) : StatusFits i s st :=
    ⟨hb, iff_of_false hst hempty, fun h => absurd h hst'⟩
  rw [he]
  refine .ite (fun hafsk => .ite (fun hon => answers_of_test (fun hw => ?_) fun hw => ?_) fun hoff => ?_) fun hno => ?_
  · exact fits nofun nofun (iff_of_true rfl ⟨hi, hafsk, hon, (workerActive_iff s).1 hw⟩)
  · exact fits nofun nofun (iff_of_false nofun fun h => hw ((workerActive_iff s).2 h.2.2.2))
  · exact .next (.refused .disabled rfl (fits nofun nofun (iff_of_false nofun fun h => hoff h.2.2.1)))
  · exact .next (.refused .absent rfl (fits nofun nofun (iff_of_false nofun fun h => hno h.2.1)))

/-- An append refuses with `ST_FULL`, and with nothing else of its own. -/
theorem append_answers {c : Prop} [Decidable c] {u : State} {v : Word} (hb : ¬ BusyCause i s) (he : ¬ EmptyCause i s)
    (hf : c → FullCause i s) : Leaves (if c then s.refuse .full else u.respond .ok v) (Answers i s) :=
  answers_of_test (fun h => ⟨iff_of_false nofun hb, iff_of_false nofun he, fun _ => hf h⟩)
    fun _ => ⟨iff_of_false nofun hb, iff_of_false nofun he, nofun⟩

/-- A gated operation: `ST_ABSENT` is no status of its own. -/
theorem absent_answers (hb : ¬ BusyCause i s) (he : ¬ EmptyCause i s) : Leaves (s.refuse .absent) (Answers i s) :=
  .next (.refused .absent rfl ⟨iff_of_false nofun hb, iff_of_false nofun he, nofun⟩)

/-- A read of a byte buffer refuses with `ST_EMPTY`, and with nothing else. -/
theorem read_answers {c : Prop} [Decidable c] {u : State} {v : Word} (hb : ¬ BusyCause i s) (he : EmptyCause i s ↔ c) :
    Leaves (if c then s.refuse .empty else u.respond .ok v) (Answers i s) :=
  answers_of_test (fun h => ⟨iff_of_false nofun hb, iff_of_true rfl (he.2 h), nofun⟩)
    fun h => ⟨iff_of_false nofun hb, iff_of_false nofun fun hc => h (he.1 hc), nofun⟩

theorem axbEmitAll_frame (vs : List Byte) (s : State) :
    ∃ m n, (axbEmitAll vs s).2 = { s with codec.axb := m, codec.axbLen := n } := by
  induction vs generalizing s with
  | nil => exact ⟨_, _, rfl⟩
  | cons v vs ih =>
    by_cases h : s.codec.axbLen = s.build.axbCap
    · obtain ⟨m, n, he⟩ := ih s
      exact ⟨m, n, by rw [axbEmitAll, axbEmit, if_pos h]; exact he⟩
    · obtain ⟨m, n, he⟩ := ih { s with codec.axb := Memory.write s.codec.axb s.codec.axbLen v, codec.axbLen := s.codec.axbLen + 1 }
      exact ⟨m, n, by rw [axbEmitAll, axbEmit, if_neg h]; exact he⟩

theorem execAxenc_answers (s : State) : Leaves (execAxenc s) (Answers .axenc s) := by
  have fits {st : Status} (hb : st ≠ .busy) (he : st ≠ .empty) : StatusFits .axenc s st :=
    ⟨iff_of_false hb (by simp [BusyCause]), iff_of_false he (by simp [EmptyCause]), fun _ => .inl rfl⟩
  obtain ⟨m, n, he⟩ := axbEmitAll_frame (headerBytes s) s
  rw [execAxenc]
  generalize axbEmitAll (headerBytes s) s = r at he
  obtain ⟨stored, t⟩ := r
  cases he
  cases stored with
  | true => exact .next (.ok _ rfl (fits nofun nofun))
  | false => exact .next (.filled _ rfl rfl (fits nofun nofun))

theorem exec_answers_fitting (i : Instr) (s : State) : Leaves (exec i s) (Answers i s) := by
  cases hi : hasOwnStatus i with
  | false => exact fun t ht => (exec_plain hi s t ht).answers hi
  | true =>
    cases i with
    | rbnext => exact producer_answers (.inl rfl) rfl
    | rbput v => exact producer_answers (.inr (.inl ⟨v, rfl⟩)) rfl
    | rblast => exact producer_answers (.inr (.inr (.inl rfl))) rfl
    | capstart f => exact producer_answers (.inr (.inr (.inr ⟨f, rfl⟩))) rfl
    | strget => exact read_answers (by simp [BusyCause]) (by simp [EmptyCause])
    | axbget => exact read_answers (by simp [BusyCause]) (by simp [EmptyCause])
    | axenc => exact execAxenc_answers s
    | txqpush v =>
      have hb : ¬ BusyCause (.txqpush v) s := by simp [BusyCause]
      have he : ¬ EmptyCause (.txqpush v) s := by simp [EmptyCause]
      exact .ite (fun _ => append_answers hb he fun h => .inr (.inl ⟨⟨v, rfl⟩, h⟩)) fun _ => absent_answers hb he
    | lpbput v =>
      have hb : ¬ BusyCause (.lpbput v) s := by simp [BusyCause]
      have he : ¬ EmptyCause (.lpbput v) s := by simp [EmptyCause]
      exact .ite (fun _ => append_answers hb he fun h => .inr (.inr (.inr (.inr ⟨⟨v, rfl⟩, h⟩)))) fun _ => absent_answers hb he
    | strput v =>
      exact append_answers (by simp [BusyCause]) (by simp [EmptyCause]) fun h => .inr (.inr (.inl ⟨⟨v, rfl⟩, h⟩))
    | axbput v =>
      have hput : exec (.axbput v) s = if s.codec.axbLen = s.build.axbCap then s.refuse .full else
          { s with codec.axb := Memory.write s.codec.axb s.codec.axbLen v, codec.axbLen := s.codec.axbLen + 1 }.respond .ok 0 := by
        split
        · exact exec_axbput_full ‹_› v
        · exact exec_axbput_room ‹_› v
      rw [hput]
      exact append_answers (by simp [BusyCause]) (by simp [EmptyCause]) fun h => .inr (.inr (.inr (.inl ⟨⟨v, rfl⟩, h⟩)))
    | _ => cases hi

/-- Settles O57: of the answers only AXENC's bytes that fitted change more than the response. -/
theorem refusalsChangeNothing : Obligations.RefusalsChangeNothing := by
  unfold Obligations.RefusalsChangeNothing
  intro i s t r h hr hst
  obtain ⟨v, hok, -⟩ | ⟨st, rfl, -⟩ | ⟨v, hi, ht, -⟩ := exec_answers_fitting i s t h
  · cases hr.symm.trans hok
    exact absurd rfl hst
  · cases hr
    exact .inl ⟨rfl, rfl⟩
  · have hv : t.out.rsp = some ⟨.full, v⟩ := by rw [ht]
    cases hr.symm.trans hv
    exact .inr ⟨hi, rfl, ht⟩

/-- Settles O58: the status each answer has fits its cause. -/
theorem refusalCauses : Obligations.RefusalCauses := by
  unfold Obligations.RefusalCauses
  intro i s t r h hr
  have hfits : StatusFits i s r.st := by
    obtain ⟨v, hok, hf⟩ | ⟨st, rfl, hf⟩ | ⟨v, hi, ht, hf⟩ := exec_answers_fitting i s t h
    · cases hr.symm.trans hok
      exact hf
    · cases hr
      exact hf
    · have hv : t.out.rsp = some ⟨.full, v⟩ := by rw [ht]
      cases hr.symm.trans hv
      exact hf
  exact ⟨hfits.busy, hfits.empty, hfits.full⟩

end Sys2Proof.Machine
end

section
/-! The ring properties (41_ring_buffer.md R137): what runs of puts and of gets answer and leave, (a) and (b) of them, and (c) by an
invariant of the reader and the writer over the steps between a commit and its last read. -/

namespace Sys2Proof.Machine

/-! ### Cursors -/

theorem cursorDiff_add {n k : Nat} (hk : k < n) (c : Nat) : cursorDiff n ((c + k) % n) c = k := by
  have hcast : (cursorDiff n ((c + k) % n) c : Int) = k := by
    rw [natCast_cursorDiff (by omega), Int.natCast_emod, Int.emod_sub_emod, Nat.cast_add, add_sub_cancel_left,
      Int.emod_eq_of_lt (by omega) (by omega)]
  exact Int.ofNat_inj.1 hcast

theorem cursorDiff_add_le {n : Nat} (hn : 0 < n) (c k : Nat) : cursorDiff n ((c + k) % n) c ≤ k := by
  rw [← Nat.add_mod_mod, cursorDiff_add (Nat.mod_lt k hn)]
  exact Nat.mod_le k n

theorem cursorDiff_pos {n a c : Nat} (ha : a < n) (hc : c < n) (h : a ≠ c) : 0 < cursorDiff n a c := by
  refine Nat.pos_of_ne_zero fun hzero => h ?_
  have hmod := natCast_cursorDiff (by omega : 0 < n) a c
  rw [hzero, Nat.cast_zero, eq_comm, ← Int.emod_eq_emod_iff_emod_sub_eq_zero, Int.emod_eq_of_lt (by omega) (by omega),
    Int.emod_eq_of_lt (by omega) (by omega)] at hmod
  exact Int.ofNat_inj.1 hmod

/-- `vs` stands in the ring of `n` cells from the cell `c` on, round its end. -/
def CellsHold (m : Memory Byte) (n c : Nat) (vs : List Byte) : Prop :=
  ∀ j v, vs[j]? = some v → Memory.byteAt .buf m ((c + j) % n) = v

theorem cellsHold_nil (m : Memory Byte) (n c : Nat) : CellsHold m n c [] := nofun

theorem cellsHold_append_singleton {m : Memory Byte} {n c : Nat} {vs : List Byte} {v : Byte} :
    CellsHold m n c (vs ++ [v]) ↔ CellsHold m n c vs ∧ Memory.byteAt .buf m ((c + vs.length) % n) = v := by
  refine ⟨fun h => ⟨fun j u hu => h j u ?_, h _ _ (by simp)⟩, fun ⟨h, hv⟩ j u hu => ?_⟩
  · rw [List.getElem?_append_left (List.getElem?_eq_some_iff.1 hu).1, hu]
  · obtain hj | rfl | hj := Nat.lt_trichotomy j vs.length
    · exact h j u (by rwa [List.getElem?_append_left hj] at hu)
    · simpa [hv] using hu
    · rw [List.getElem?_eq_none (by simp; omega)] at hu
      cases hu

/-- A write past the cells of `vs` leaves them. -/
theorem CellsHold.write {m : Memory Byte} {n c : Nat} {vs : List Byte} (h : CellsHold m n c vs) (hlen : vs.length < n) (v : Byte) :
    CellsHold (Memory.write m ((c + vs.length) % n) v) n c vs := by
  intro j u hu
  have hj := (List.getElem?_eq_some_iff.1 hu).1
  rw [Memory.byteAt_write, if_neg fun he => ?_, h j u hu]
  have hdiff := cursorDiff_add (hj.trans hlen) c
  rw [he, cursorDiff_add hlen] at hdiff
  omega

/-! ### RunsTo of operations -/

/-- The run `is` from `s` answers `rs` and ends in `t`, the build and the capture engine as they were. -/
structure RunsTo (is : List Instr) (s : State) (rs : List (Option Response)) (t : State) : Prop where
  answers : ∀ js, runAnswers (is ++ js) s = rs ++ runAnswers js t
  build : t.build = s.build
  cap : t.cap = s.cap

section
variable {is js : List Instr} {i : Instr} {rs qs : List (Option Response)} {s t u : State}

theorem RunsTo.refl (s : State) : RunsTo [] s [] s := ⟨fun _ => rfl, rfl, rfl⟩

theorem RunsTo.one {st : Status} {val : Word} (h : exec i s = .next (t.withRsp st val)) (hb : t.build = s.build) (hc : t.cap = s.cap) :
    RunsTo [i] s [some ⟨st, val⟩] (t.withRsp st val) :=
  ⟨fun js => by rw [List.singleton_append, runAnswers, h]; rfl, hb, hc⟩

theorem RunsTo.trans (h : RunsTo is s rs t) (h' : RunsTo js t qs u) : RunsTo (is ++ js) s (rs ++ qs) u where
  answers ks := by rw [List.append_assoc, h.answers, h'.answers, List.append_assoc]
  build := h'.build.trans h.build
  cap := h'.cap.trans h.cap

theorem RunsTo.runAnswers_eq (h : RunsTo is s rs t) : runAnswers is s = rs := by
  simpa [runAnswers] using h.answers []

end

/-! ### Puts and gets -/

/-- The ring is in the build, enabled, and the host is its producer. -/
structure HostRing (s : State) : Prop where
  backend : s.build.backend = .afsk
  enabled : s.ring.rbEnabled = true
  host : s.cap.capState = .idle ∨ s.cap.capState = .done
  writeCursor_lt : s.ring.writeCursor < s.build.ringCap

section
variable {s t : State}

theorem RunsTo.hostRing {is : List Instr} {rs : List (Option Response)} (hrun : RunsTo is s rs t) (h : HostRing s)
    (he : t.ring.rbEnabled = s.ring.rbEnabled) (hw : t.ring.writeCursor < s.build.ringCap) : HostRing t where
  backend := hrun.build ▸ h.backend
  enabled := he.trans h.enabled
  host := hrun.cap ▸ h.host
  writeCursor_lt := hrun.build ▸ hw

theorem unread_congr (hb : t.build = s.build) (hr : t.ring.readCursor = s.ring.readCursor)
    (hs : t.ring.committedFrameStart = s.ring.committedFrameStart)
    (hl : t.ring.committedFrameLength = s.ring.committedFrameLength) : t.unread = s.unread := by
  unfold State.unread State.consumed
  rw [hb, hr, hs, hl]

/-- Puts with room and nothing unread are all stored, from the write cursor on. -/
theorem runs_puts (h : HostRing s) (hun : s.unread = 0) (vs : List Byte)
    (hroom : s.ring.provisionalFrameLength + vs.length ≤ s.build.ringCap - 1) :
    ∃ t buf, RunsTo (vs.map Instr.rbput) s (List.replicate vs.length (some ⟨.ok, 0⟩)) t ∧
      CellsHold buf s.build.ringCap s.ring.writeCursor vs ∧
      t.ring = { s.ring with
        buf := buf
        writeCursor := (s.ring.writeCursor + vs.length) % s.build.ringCap
        provisionalFrameLength := s.ring.provisionalFrameLength + vs.length } := by
  have hwc := h.writeCursor_lt
  induction vs using List.reverseRecOn with
  | nil => exact ⟨s, _, .refl s, cellsHold_nil _ _ _, by rw [List.length_nil, Nat.add_zero, Nat.mod_eq_of_lt hwc, Nat.add_zero]⟩
  | append_singleton vs v ih =>
    rw [List.length_append, List.length_singleton] at hroom
    obtain ⟨t, buf, hrun, hcells, hring⟩ := ih (by omega)
    have ht : HostRing t := hrun.hostRing h (by rw [hring]) (by rw [hring]; exact Nat.mod_lt _ (by omega))
    have hunread : t.unread = 0 := by rw [unread_congr hrun.build (by rw [hring]) (by rw [hring]) (by rw [hring]), hun]
    have hput : put v t = t.stored v := put_of_free (by omega) (by rw [hrun.build, hring]; dsimp only; omega)
    have hone : RunsTo [.rbput v] t [some ⟨.ok, 0⟩] ((t.stored v).withRsp .ok 0) :=
      .one ((exec_rbput ht.backend ht.enabled ht.host v).trans (by rw [hput])) rfl rfl
    refine ⟨_, _, by simpa [List.replicate_succ'] using hrun.trans hone,
      cellsHold_append_singleton.2 ⟨hcells.write (by omega) v, by rw [Memory.byteAt_write, if_pos rfl]⟩, ?_⟩
    show (t.stored v).ring = _
    simp [State.stored, hrun.build, hring, Nat.add_assoc]

/-- Gets answer the cells from the read cursor on and move it past them. -/
theorem runs_gets (h : HostRing s) (hrc : s.ring.readCursor < s.build.ringCap) (vs : List Byte)
    (hcells : CellsHold s.ring.buf s.build.ringCap s.ring.readCursor vs) :
    ∃ t, RunsTo (List.replicate vs.length .rbget) s (vs.map fun v => some ⟨.ok, v.signExtend 32⟩) t ∧
      t.ring = { s.ring with readCursor := (s.ring.readCursor + vs.length) % s.build.ringCap } := by
  induction vs using List.reverseRecOn with
  | nil => exact ⟨s, .refl s, by rw [List.length_nil, Nat.add_zero, Nat.mod_eq_of_lt hrc]⟩
  | append_singleton vs v ih =>
    obtain ⟨hcells, hcell⟩ := cellsHold_append_singleton.1 hcells
    obtain ⟨t, hrun, hring⟩ := ih hcells
    have ht : HostRing t := hrun.hostRing h (by rw [hring]) (by rw [hring]; exact h.writeCursor_lt)
    have hread : Memory.byteAt .buf t.ring.buf t.ring.readCursor = v := by rw [hring]; exact hcell
    have hone := RunsTo.one (exec_rbget ht.backend ht.enabled) rfl rfl
    rw [hread] at hone
    refine ⟨_, by simpa [List.replicate_succ'] using hrun.trans hone, ?_⟩
    show { t.ring with readCursor := (t.ring.readCursor + 1) % t.build.ringCap } = _
    rw [hring, hrun.build]
    simp [Nat.add_assoc]

end

/-- Settles O23: with no committed frame nothing is unread, so the puts are stored where the gets begin. -/
theorem putsThenGetsInOrder : Obligations.PutsThenGetsInOrder := by
  unfold Obligations.PutsThenGetsInOrder
  intro s vs hb he hw hnone hcursors hwc hroom
  have h : HostRing s := ⟨hb, he, hw, hwc⟩
  obtain ⟨t, buf, hputs, hcells, hring⟩ := runs_puts h (if_pos hnone) vs hroom
  have hrc : t.ring.readCursor = s.ring.writeCursor := by rw [hring]; exact hcursors
  have ht : HostRing t := hputs.hostRing h (by rw [hring]) (by rw [hring]; exact Nat.mod_lt _ (by omega))
  obtain ⟨u, hgets, -⟩ := runs_gets ht (by rwa [hrc, hputs.build]) vs (by rwa [hrc, hputs.build, hring])
  exact (hputs.trans hgets).runAnswers_eq

theorem runs_rbnext {s : State} (h : HostRing s) : RunsTo [.rbnext] s [some ⟨.ok, 0⟩] ((nextFrame s).withRsp .ok 0) :=
  .one (exec_producer_host rfl h.backend h.enabled h.host) rfl rfl

/-- The state in which the provisional frame has become the committed one (R136). -/
def State.committed (s : State) : State :=
  { s with
    ring.committedFrameStart := s.ring.provisionalFrameStart
    ring.committedFrameLength := s.ring.provisionalFrameLength
    ring.readCursor := s.ring.provisionalFrameStart }

theorem runs_rblast {s : State} (h : HostRing s) :
    RunsTo [.rblast] s [some ⟨.ok, BitVec.ofNat 32 s.ring.provisionalFrameLength⟩]
      (s.committed.withRsp .ok (BitVec.ofNat 32 s.ring.provisionalFrameLength)) :=
  .one (exec_producer_host rfl h.backend h.enabled h.host) rfl rfl

/-- RBRESET and as many gets as the committed frame has samples replay it (R135), wherever the reader stood. -/
theorem runs_replay {s : State} (h : HostRing s) (hstart : s.ring.committedFrameStart < s.build.ringCap) (vs : List Byte)
    (hcells : CellsHold s.ring.buf s.build.ringCap s.ring.committedFrameStart vs) :
    ∃ t c, RunsTo ([.rbreset] ++ List.replicate vs.length .rbget) s
        ([some ⟨.ok, 0⟩] ++ vs.map fun v => some ⟨.ok, v.signExtend 32⟩) t ∧
      t.ring = { s.ring with readCursor := c } := by
  have hreset := RunsTo.one (exec_rbreset h.backend h.enabled) rfl rfl
  obtain ⟨t, hgets, hring⟩ := runs_gets (hreset.hostRing h rfl h.writeCursor_lt) hstart vs hcells
  exact ⟨t, _, hreset.trans hgets, hring⟩

/-- Settles O24: the frame is stored from the write cursor on, committed, and replayed twice. -/
theorem committedFrameReplays : Obligations.CommittedFrameReplays := by
  unfold Obligations.CommittedFrameReplays
  intro s vs hb he hw hun hwc hlen
  have h : HostRing s := ⟨hb, he, hw, hwc⟩
  have hnext := runs_rbnext h
  obtain ⟨t, buf, hputs, hcells, hring⟩ :=
    runs_puts (hnext.hostRing h rfl hwc) hun vs (by show 0 + vs.length ≤ s.build.ringCap - 1; omega)
  have hfilled := hnext.trans hputs
  have ht : HostRing t := hfilled.hostRing h (by rw [hring]; rfl) (by rw [hring]; exact Nat.mod_lt _ (Nat.zero_lt_of_lt hwc))
  have hframe : t.ring.provisionalFrameStart = s.ring.writeCursor ∧ t.ring.provisionalFrameLength = vs.length := by
    rw [hring]
    exact ⟨rfl, Nat.zero_add _⟩
  have hlast := runs_rblast ht
  rw [hframe.2] at hlast
  have hstart : t.ring.provisionalFrameStart < t.build.ringCap := by rwa [hframe.1, hfilled.build]
  have hcells : CellsHold t.ring.buf t.build.ringCap t.ring.provisionalFrameStart vs := by
    rw [hframe.1, hfilled.build, hring]
    exact hcells
  have hu := hlast.hostRing ht rfl ht.writeCursor_lt
  obtain ⟨u, c, hfirst, huring⟩ := runs_replay hu hstart vs hcells
  have hubuild : u.build = t.build := hfirst.build
  have hv : HostRing u := hfirst.hostRing hu (by rw [huring]) (by rw [huring]; exact ht.writeCursor_lt)
  obtain ⟨v, -, hsecond, -⟩ := runs_replay hv (by rw [huring, hubuild]; exact hstart) vs (by rw [huring, hubuild]; exact hcells)
  simpa using (((hfilled.trans hlast).trans hfirst).trans hsecond).runAnswers_eq

/-! ### The end of a committed frame -/

/-- `r` samples of the frame that `s` has committed have been read, and the producer, `d` cells past its end, has not passed the
reader. -/
structure Reading (s : State) (r d : Nat) (t : State) : Prop where
  build : t.build = s.build
  rstN : t.env.rstN = true
  enabled : t.ring.rbEnabled = true
  start : t.ring.committedFrameStart = s.ring.committedFrameStart
  length : t.ring.committedFrameLength = s.ring.committedFrameLength
  reader : t.ring.readCursor = (s.ring.committedFrameStart + r) % s.build.ringCap
  writer : t.ring.writeCursor = (s.committedEnd + d) % s.build.ringCap
  behind : r < s.ring.committedFrameLength → d ≤ s.build.ringCap - s.ring.committedFrameLength + r

section
variable {s t u : State} {r d : Nat}

/-- Where the reader stands as seen from the end of the frame. -/
theorem reader_from_end (hL : s.ring.committedFrameLength < s.build.ringCap) :
    (s.ring.committedFrameStart + r) % s.build.ringCap =
      (s.committedEnd + (s.build.ringCap - s.ring.committedFrameLength + r)) % s.build.ringCap := by
  rw [State.committedEnd, Nat.mod_add_mod, ← Nat.add_mod_right]
  congr 1
  omega

theorem Reading.committedEnd (h : Reading s r d t) : t.committedEnd = s.committedEnd := by
  rw [State.committedEnd, h.start, h.length, h.build]
  rfl

theorem Reading.consumed (h : Reading s r d t) (hr : r < s.build.ringCap) : t.consumed = r := by
  rw [State.consumed, h.reader, h.start, h.build, cursorDiff_add hr]

theorem Reading.unread_pos (h : Reading s r d t) (hr : r < s.ring.committedFrameLength)
    (hL : s.ring.committedFrameLength < s.build.ringCap) : 0 < t.unread := by
  rw [State.unread, h.consumed (by omega), h.length, if_neg (by omega), if_pos hr]
  omega

/-- Before the last sample has been read the frame has not ended. -/
theorem Reading.not_eof (h : Reading s r d t) (hr : r < s.ring.committedFrameLength)
    (hL : s.ring.committedFrameLength < s.build.ringCap) : ¬ t.eof = true := by
  have hbehind := h.behind hr
  have hunread := h.unread_pos hr hL
  have hnewer : ¬ t.inNewer t.ring.readCursor = true := by
    rw [State.inNewer, decide_eq_true_iff, h.committedEnd, h.build, h.reader, h.writer, reader_from_end hL,
      cursorDiff_add (by omega)]
    have := cursorDiff_add_le (by omega : 0 < s.build.ringCap) s.committedEnd d
    omega
  rw [State.eof_iff, h.length]
  rintro (hnone | ⟨-, hzero⟩ | hin)
  · omega
  · omega
  · exact hnewer hin

/-- After the last sample the reader is at the end of the frame, where either the writer stands or a newer sample. -/
theorem Reading.eof (h : Reading s s.ring.committedFrameLength d t) (hL : s.ring.committedFrameLength < s.build.ringCap) :
    t.eof = true := by
  have hlt {a : Nat} : a % s.build.ringCap < s.build.ringCap := Nat.mod_lt a (by omega)
  have hreader : t.ring.readCursor = s.committedEnd := h.reader
  rw [State.eof_iff]
  by_cases hwc : t.ring.readCursor = t.ring.writeCursor
  · refine .inr (.inl ⟨hwc, ?_⟩)
    rw [State.unread, h.consumed hL, h.length]
    simp
  · refine .inr (.inr ?_)
    rw [State.inNewer, decide_eq_true_iff, h.committedEnd, hreader, h.build]
    have hself : cursorDiff s.build.ringCap s.committedEnd s.committedEnd = 0 := by simp [cursorDiff]
    rw [hself]
    refine cursorDiff_pos (by rw [h.writer]; exact hlt) hlt (by rw [← hreader]; exact Ne.symm hwc)

/-- A step that reads nothing moves at most the producer, and not onto an unread sample. -/
theorem Reading.produce (h : Reading s r d t) (hL : s.ring.committedFrameLength < s.build.ringCap) (hp : Produces t u) :
    ∃ d', Reading s r d' u := by
  have moved {d'} (hring : u.ring.rbEnabled = t.ring.rbEnabled ∧ u.ring.committedFrameStart = t.ring.committedFrameStart ∧
      u.ring.committedFrameLength = t.ring.committedFrameLength ∧ u.ring.readCursor = t.ring.readCursor)
      (hwriter : u.ring.writeCursor = (s.committedEnd + d') % s.build.ringCap)
      (hbehind : r < s.ring.committedFrameLength → d' ≤ s.build.ringCap - s.ring.committedFrameLength + r) : Reading s r d' u := by
    obtain ⟨he, hs, hl, hr⟩ := hring
    exact ⟨hp.build.trans h.build, hp.rstN.trans h.rstN, he.trans h.enabled, hs.trans h.start, hl.trans h.length, hr.trans h.reader,
      hwriter, hbehind⟩
  obtain ⟨start, len, hring⟩ | ⟨hfree, v, start, len, hring⟩ := hp.ring
  · refine ⟨d, moved (by simp [hring]) ?_ h.behind⟩
    rw [hring]
    exact h.writer
  · refine ⟨d + 1, moved (by simp [hring]) ?_ fun hlt => ?_⟩
    · rw [hring]
      show (t.ring.writeCursor + 1) % t.build.ringCap = _
      rw [h.writer, h.build, Nat.mod_add_mod, Nat.add_assoc]
    · have hd : d ≠ s.build.ringCap - s.ring.committedFrameLength + r := fun hd =>
        hfree ⟨h.unread_pos hlt hL, by rw [h.writer, h.reader, reader_from_end hL, hd]⟩
      have := h.behind hlt
      omega

/-- A read moves the reader by one. -/
theorem Reading.read (h : Reading s r d t) (val : Word) :
    Reading s (r + 1) d (({ t with ring.readCursor := (t.ring.readCursor + 1) % t.build.ringCap } : State).withRsp .ok val) :=
  { h with
    reader := by
      show (t.ring.readCursor + 1) % t.build.ringCap = _
      rw [h.reader, h.build, Nat.mod_add_mod, Nat.add_assoc]
    behind := fun hr => (h.behind (by omega)).trans (by omega) }

/-- The next thing offered, and the outputs of the step before, are no part of what is read. -/
theorem Reading.begin (h : Reading s r d t) (rest : List Stimulus) : Reading s r d (t.begin rest) := { h with }

end

/-- An entry that keeps the frame and is no RBGET does what a producer may. -/
theorem runStimulus_produces {e : Stimulus} (he : e.keepsFrame = true) (hget : e.instr? ≠ some .rbget) (s : State) :
    Leaves (runStimulus e s) (Produces s) := by
  have idle : Produces s s := .refl s
  cases e with
  | command w =>
    refine .whileUp idle (runWord_leaves (fun st => (Still.refused s st).produces) fun i hd => ?_)
    have hinstr : Stimulus.instr? (.command w) = some i := by rw [Stimulus.instr?, hd]; rfl
    rw [hinstr] at hget
    simp only [Stimulus.keepsFrame, hinstr, Bool.and_eq_true, bne_iff_ne, ne_eq, Option.some.injEq] at he hget
    obtain ⟨⟨hreset, hlast⟩, hback⟩ := he
    exact exec_produces hreset hget hback hlast s
  | tick => exact .whileUp idle (.next { (runTick_leaves s).1.produces with })
  | capStep => exact .whileUp idle (.next (runCapStep_leaves s).1)
  | squelchEdge v =>
    exact .whileUp { idle with } (.next { (squelchEdge_still v { s with env.squelchOpen := v }).produces with })
  | powerDown => exact .whileUp idle (.next (runPowerDown_still s).produces)
  | squelchPin v | allocPin v => exact .next { idle with }
  | resetLow | resetHigh | resetDuring w k => cases he

theorem step_produces {s : State} {e : Stimulus} {rest : List Stimulus} (hag : s.env.agenda = e :: rest) (he : e.keepsFrame = true)
    (hget : e.instr? ≠ some .rbget) : ∃ t, step s = .next t ∧ Produces (s.begin rest) t := by
  obtain ⟨t, ht⟩ := runStimulus_answers e (s.begin rest)
  exact ⟨t, (step_of_cons hag).trans ht, runStimulus_produces he hget _ t ht⟩

theorem step_of_rbget {s : State} {e : Stimulus} {rest : List Stimulus} (hag : s.env.agenda = e :: rest)
    (hget : e.instr? = some .rbget) (hup : s.env.rstN = true) : step s = exec .rbget (s.begin rest) := by
  cases e with
  | command w =>
    refine step_of_command hag hup ?_
    cases hd : decode w with
    | ok i => simpa [Stimulus.instr?, hd, Except.toOption] using hget
    | error x => simp [Stimulus.instr?, hd, Except.toOption] at hget
  | _ => cases hget

theorem runSteps_succ {s t : State} (h : step s = .next t) (n : Nat) : runSteps (n + 1) s = runSteps n t := by
  rw [runSteps, h]

/-- The steps between a commit and the last of the `r + reads` reads. -/
theorem Reading.run {s : State} (hb : s.build.backend = .afsk) (hL : s.ring.committedFrameLength < s.build.ringCap)
    {es rest : List Stimulus} (hes : ∀ e ∈ es, e.keepsFrame = true) {t : State} {r d : Nat} (h : Reading s r d t)
    (hag : t.env.agenda = es ++ rest)
    (hr : r + (es.countP fun e => e.instr? == some .rbget) ≤ s.ring.committedFrameLength) :
    ∃ u d', runSteps es.length t = some u ∧ Reading s (r + es.countP fun e => e.instr? == some .rbget) d' u := by
  induction es generalizing t r d with
  | nil => exact ⟨t, d, rfl, h⟩
  | cons e es ih =>
    have hes' := fun e' he' => hes e' (List.mem_cons_of_mem e he')
    have hbegin := h.begin (es ++ rest)
    by_cases hget : e.instr? = some .rbget
    · have hcount : (e :: es).countP (fun e => e.instr? == some .rbget) = (es.countP fun e => e.instr? == some .rbget) + 1 :=
        List.countP_cons_of_pos (by simp [hget])
      rw [hcount] at hr ⊢
      have hstep := (step_of_rbget hag hget h.rstN).trans (exec_rbget (s := t.begin (es ++ rest)) (h.build ▸ hb) h.enabled)
      obtain ⟨u, d', hu, hend⟩ := ih hes' (hbegin.read _) rfl (by omega)
      rw [Nat.add_right_comm, Nat.add_assoc] at hend
      exact ⟨u, d', (runSteps_succ hstep _).trans hu, hend⟩
    · have hcount : (e :: es).countP (fun e => e.instr? == some .rbget) = es.countP fun e => e.instr? == some .rbget :=
        List.countP_cons_of_neg (by simp [hget])
      rw [hcount] at hr ⊢
      obtain ⟨t', hstep, hp⟩ := step_produces hag (hes e List.mem_cons_self) hget
      obtain ⟨d₁, h₁⟩ := hbegin.produce hL hp
      obtain ⟨u, d', hu, hend⟩ := ih hes' h₁ hp.agenda hr
      exact ⟨u, d', (runSteps_succ hstep _).trans hu, hend⟩

/-- Settles O25: the reader and the writer keep their order over the run, which decides `Eof` at its end. -/
theorem eofExactlyAtFrameEnd : Obligations.EofExactlyAtFrameEnd := by
  unfold Obligations.EofExactlyAtFrameEnd
  intro s es rest hb he hup hinv hpos hrc hwc hag hes reads hreads
  have hstart := hinv.committed_lt
  have hL : s.ring.committedFrameLength < s.build.ringCap := by
    have := hinv.committed_le
    omega
  have hcommit : Reading s 0 0 s :=
    { build := rfl
      rstN := hup
      enabled := he
      start := rfl
      length := rfl
      reader := by rw [hrc, Nat.add_zero, Nat.mod_eq_of_lt hstart]
      writer := by rw [hwc, Nat.add_zero, State.committedEnd, Nat.mod_mod]
      behind := fun _ => Nat.zero_le _ }
  obtain ⟨t, d, ht, h⟩ := hcommit.run hb hL hes hag (by omega)
  rw [Nat.zero_add] at h
  refine ⟨t, ht, ?_⟩
  rw [exec_rbeof (h.build ▸ hb) h.enabled]
  by_cases hall : reads = s.ring.committedFrameLength
  · have heof : t.eof = true := Reading.eof (by rwa [← hall]) hL
    rw [if_pos hall, if_pos heof]
  · have hnot : ¬ t.eof = true := h.not_eof (lt_of_le_of_ne hreads hall) hL
    rw [if_neg hall, if_neg hnot]

end Sys2Proof.Machine
end
